-- ==== Sys2Proof/Word.lean ====
section
/-!
DEFINITION. The word of the link and the numberings of the hub (00_scope.md, section 4, Conventions).
-/
namespace Sys2Proof

/-- One 32-bit word: an image word, or a word of a request frame or response frame. -/
abbrev Word := BitVec 32

/-- A port, 0 to 3. -/
abbrev PortId := Fin 4

/-- A frame of the Frame Pool, 0 to 63. -/
abbrev FrameId := Fin 64

/-- A block of the Image Store, 0 to 127. -/
abbrev BlockId := Fin 128

/-- A class, 0 to 7. -/
abbrev ClassId := Fin 8

/-- A priority, and so a band of a class queue: 0 (lowest) to 3 (highest). -/
abbrev Prio := Fin 4

/-- A set of ports (an affinity): bit p stands for port p. -/
abbrev PortSet := BitVec 4

/-- A set of classes (a class mask or a subscription mask): bit c stands for class c. -/
abbrev ClassSet := BitVec 8

/-- A request tag, 0 to 15. -/
abbrev Tag := BitVec 4

end Sys2Proof
end

