-- ==== Sys2Proof/Syntax.lean ====
section
/-!
DEFINITION. The commands of the hub: one constructor per row of spec/opcode_table.json.
-/
namespace Sys2Proof

/-- A command of the hub.

The first 33 are the requests of R178. Such a command is the ADMISSION of that request of port `p` (R176): the
request with this tag and these payload words leaves the port's request slot and is taken whole. The payload words
are the argument words of R180, in the order they stand on the link, so that every malformed payload has its
command too. The remaining 11 are the link events, the hub's own events and the outside faults. -/
inductive Instr where
  /-- JOIN (R130). -/
  | join (p : PortId) (tag : Tag) (payload : List Word)
  /-- LEAVE (R135). -/
  | leave (p : PortId) (tag : Tag) (payload : List Word)
  /-- RENEW (R133). -/
  | renew (p : PortId) (tag : Tag) (payload : List Word)
  /-- STATUS (R136). -/
  | status (p : PortId) (tag : Tag) (payload : List Word)
  /-- HUB_INFO (R137). -/
  | hubInfo (p : PortId) (tag : Tag) (payload : List Word)
  /-- SUBSCRIBE (R138). -/
  | subscribe (p : PortId) (tag : Tag) (payload : List Word)
  /-- PARK_OPEN (R42). -/
  | parkOpen (p : PortId) (tag : Tag) (payload : List Word)
  /-- PARK_WRITE (R46). -/
  | parkWrite (p : PortId) (tag : Tag) (payload : List Word)
  /-- PARK_CLOSE (R49). -/
  | parkClose (p : PortId) (tag : Tag) (payload : List Word)
  /-- PARK_ABORT (R53). -/
  | parkAbort (p : PortId) (tag : Tag) (payload : List Word)
  /-- CLAIM (R63). -/
  | claim (p : PortId) (tag : Tag) (payload : List Word)
  /-- READ_IMAGE (R68). -/
  | readImage (p : PortId) (tag : Tag) (payload : List Word)
  /-- WRITE_IMAGE (R71). -/
  | writeImage (p : PortId) (tag : Tag) (payload : List Word)
  /-- EDIT (R74). -/
  | edit (p : PortId) (tag : Tag) (payload : List Word)
  /-- RETURN (R75). -/
  | returnFrame (p : PortId) (tag : Tag) (payload : List Word)
  /-- REPARK (R77). -/
  | repark (p : PortId) (tag : Tag) (payload : List Word)
  /-- RETIRE (R79). -/
  | retire (p : PortId) (tag : Tag) (payload : List Word)
  /-- CLAIM_WAIT (R86). -/
  | claimWait (p : PortId) (tag : Tag) (payload : List Word)
  /-- CLAIM_RESULT (R93). -/
  | claimResult (p : PortId) (tag : Tag) (payload : List Word)
  /-- CLAIM_CANCEL (R94). -/
  | claimCancel (p : PortId) (tag : Tag) (payload : List Word)
  /-- SUSPEND (R99). -/
  | suspend (p : PortId) (tag : Tag) (payload : List Word)
  /-- RESUME_TOP (R101). -/
  | resumeTop (p : PortId) (tag : Tag) (payload : List Word)
  /-- PREEMPT (R110). -/
  | preempt (p : PortId) (tag : Tag) (payload : List Word)
  /-- TAKE_PREEMPT (R117). -/
  | takePreempt (p : PortId) (tag : Tag) (payload : List Word)
  /-- END_PREEMPT (R121). -/
  | endPreempt (p : PortId) (tag : Tag) (payload : List Word)
  /-- ISOLATION_LIST (R162). -/
  | isolationList (p : PortId) (tag : Tag) (payload : List Word)
  /-- INSPECT (R164). -/
  | inspect (p : PortId) (tag : Tag) (payload : List Word)
  /-- ISOLATION_WRITE (R165). -/
  | isolationWrite (p : PortId) (tag : Tag) (payload : List Word)
  /-- REPAIR (R167). -/
  | repair (p : PortId) (tag : Tag) (payload : List Word)
  /-- DISCARD (R169). -/
  | discard (p : PortId) (tag : Tag) (payload : List Word)
  /-- NOTICE_READ (R154). -/
  | noticeRead (p : PortId) (tag : Tag) (payload : List Word)
  /-- CLASS_SET (R34). -/
  | classSet (p : PortId) (tag : Tag) (payload : List Word)
  /-- CLASS_GET (R36). -/
  | classGet (p : PortId) (tag : Tag) (payload : List Word)
  /-- REQUEST_FRAME (R173): a window of port `p` in which the host sends the words `hsi`, one for each 32 rising
  edges of HCLKn from the start of the window to its end. -/
  | requestFrame (p : PortId) (hsi : List Word)
  /-- READ_WINDOW (R172): a window of port `p` of `words` whole words in which the host sends IDLE words alone. -/
  | readWindow (p : PortId) (words : Nat)
  /-- BREAK (R146): a window of port `p` holding the one word of all ones. -/
  | breakFrame (p : PortId)
  /-- HUB_RESET (R147): RESET_N is pulsed low, or the part is powered up. -/
  | hubReset
  /-- HUB_READY (R148): the hub becomes ready to receive frames. -/
  | hubReady
  /-- TIMEBASE_TICK (R29, R91, R112, R132): one 1 ms tick. -/
  | timebaseTick
  /-- LEASE_EXPIRY (R132): the lease timer of port `p` has reached 0. -/
  | leaseExpiry (p : PortId)
  /-- WAIT_EXPIRY (R91): the wait timer of port `p` has reached 0. -/
  | waitExpiry (p : PortId)
  /-- GRACE_EXPIRY (R113): the grace timer of port `p` has reached 0. -/
  | graceExpiry (p : PortId)
  /-- AGING_PROMOTION (R30, R31): the frames of one band of a class that are due are promoted together. -/
  | agingPromotion (c : ClassId) (band : Prio)
  /-- FAULT (R19): an outside fault makes the word stored at position `pos` of block `b` read `value`. -/
  | fault (b : BlockId) (pos : Fin 8) (value : Word)
  deriving DecidableEq, Repr

end Sys2Proof
end

