-- ==== Sys2Proof/Decode.lean ====
section
/-!
DEFINITION. No row of spec/opcode_table.json gives bits: a command of the hub is spelled by no word of the table.
The words of a request frame are read by the Host Port instead (Machine/Link.lean).
-/
namespace Sys2Proof

/-- The command that the `nbits` bits of `w` spell by the table's bits: none, since no row gives any
(notes/assumptions/2.md). -/
def decodeTableWord (_nbits _w : Nat) : Option Instr := none

end Sys2Proof
end

