-- ==== Sys2Proof/Config.lean ====
section
/-!
DEFINITION. The principal numbers of the part (00_scope.md, section 2.3). The spec fixes every one of them; the
part leaves no value to the implementation, so this file holds no free value.
-/
namespace Sys2Proof.Config

/-- Words in one block of the Image Store. -/
@[simp] abbrev blockWords : Nat := 8

/-- Longest image of one frame, in words (R12). -/
@[simp] abbrev imageMax : Nat := 64

/-- Places in a hold set, one of which a waiting claim reserves (R59). -/
@[simp] abbrev holdMax : Nat := 4

/-- Entries of a suspension stack (R96). -/
@[simp] abbrev stackMax : Nat := 8

/-- Handles in a filling list (R39). -/
@[simp] abbrev fillMax : Nat := 2

/-- Records in a notice queue (R149). -/
@[simp] abbrev noticeMax : Nat := 16

/-- Image words moved by one request (00_scope.md, section 2.3). -/
@[simp] abbrev moveMax : Nat := 16

/-- Words in the payload of a request frame (R173). -/
@[simp] abbrev payloadMax : Nat := 20

/-- Words in the payload of a response frame (R177). -/
@[simp] abbrev responseMax : Nat := 40

/-- The frames a class may have in use after hub reset (R22). -/
@[simp] abbrev limitReset : Nat := 64

/-- The value at which a waited time holds, in ms (R29); also the longest of every period. -/
@[simp] abbrev periodMax : Nat := 60000

/-- The shortest lease period, grace period and aging interval that are not 0, in ms. -/
@[simp] abbrev periodMin : Nat := 10

/-- Ticks after the release of RESET_N by which the hub is ready (R148). -/
@[simp] abbrev readyTicks : Nat := 3

/-- The IDLE word, 00000FFFh (R172). -/
abbrev idleWord : BitVec 32 := 0x00000FFF#32

/-- The single word of a BREAK frame, all ones (R146). -/
abbrev breakWord : BitVec 32 := 0xFFFFFFFF#32

end Sys2Proof.Config
end

