-- ==== Sys2Proof/Machine/State.lean ====
section
/-!
DEFINITION. Everything the hub holds, as plain data, and its value after hub reset (R147).

`Hub` is what the blocks behind the Host Ports hold; `Link` is what one Host Port holds; `State` is the whole part
with the queue of the commands that wait.
-/
namespace Sys2Proof.Machine

/-! ### Frames (chapter 1) -/

/-- The cause of a frame (R10). -/
inductive Cause where
  | parked | returned | reclaimed | repaired
  deriving DecidableEq, Repr

/-- The resume mode of a frame (R11). -/
inductive ResumeMode where
  | next | wait | retry
  deriving DecidableEq, Repr

/-- Why a frame is isolated (R13). -/
inductive IsoReason where
  | checkMismatch | memoryError
  deriving DecidableEq, Repr

/-- The direction of a trapped access; a WRITE carries its write value, a READ carries none (R11). -/
inductive Access where
  | read
  | write (value : Word)
  deriving DecidableEq, Repr

/-- The width of a trapped access: 1, 2 or 4 bytes (R11). -/
inductive Width where
  | one | two | four
  deriving DecidableEq, Repr

/-- The trapped-access record of a frame (R11). -/
structure Trap where
  address : Word
  access  : Access
  width   : Width
  deriving DecidableEq, Repr

/-- The control record of a frame: the fields PARK_OPEN sets from the request (R1, R15). -/
structure Control where
  cls        : ClassId
  base       : Prio
  affinity   : PortSet
  resume     : ResumeMode
  waitMarker : Bool
  trap       : Option Trap
  deriving DecidableEq, Repr

/-- The state of a frame that is not FREE, with the fields present only in that state (R2). The owner stands in the
three states that have one, and the effective priority in QUEUED alone: in every other state it equals the base
priority (R7). -/
inductive Place where
  /-- FILLING, by its owner, with its fill pointer. -/
  | filling (owner : PortId) (fill : Nat)
  /-- QUEUED, with its effective priority and its waited time in ms. -/
  | queued (eff : Prio) (waited : Nat)
  /-- HELD, by its owner, with its modified mark. -/
  | held (owner : PortId) (modified : Bool)
  /-- STACKED, by its owner. -/
  | stacked (owner : PortId)
  /-- ISOLATED, with its isolation reason. -/
  | isolated (reason : IsoReason)
  deriving DecidableEq, Repr

/-- The fields of a frame that is not FREE (R1). -/
structure Context where
  control : Control
  origin  : PortId
  cause   : Option Cause
  len     : Nat
  blocks  : List BlockId
  check   : BitVec 16
  place   : Place
  deriving DecidableEq, Repr

/-- One record of the Frame Pool: its generation, and the other fields while it is not FREE (R1). The index is the
record's place in the pool, and the state FREE is the absence of the rest. -/
structure Frame where
  gen : BitVec 10
  ctx : Option Context
  deriving DecidableEq, Repr

/-- What the Block Allocator and the Image Store keep with one block, beside its words (R16, R19): whether it is in
the free set, its damage mark, and its rewritten-word record (bit k for word position k). -/
structure Block where
  free      : Bool
  damaged   : Bool
  rewritten : BitVec 8
  deriving DecidableEq, Repr

/-- The words of the Image Store. The word at position `pos` of block `b` has the address 8·b + pos; the list holds
(address, word) pairs with addresses strictly rising and no word 0, and an address it does not list reads 0, the
value of every stored word after hub reset (R16). -/
structure Memory where
  cells : List (Nat × Word)
  deriving DecidableEq, Repr

/-! ### Class Queues (chapter 2) -/

/-- A class record (R22) and its queue, head first (R24). -/
structure ClassRec where
  enabled    : Bool
  limit      : Nat
  aging      : Nat
  population : Nat
  queue      : List FrameId
  deriving DecidableEq, Repr

/-! ### The state of one port (chapters 3 to 9) -/

/-- The port state; the lease timer runs while the port is ONLINE and holds the remaining lease in ms (R127, R132). -/
inductive PortState where
  | offline
  | online (remaining : Nat)
  | fenced
  deriving DecidableEq, Repr

/-- The session settings of a port: its periods in ms and its subscription mask (R127). -/
structure Settings where
  lease : Nat
  grace : Nat
  mask  : ClassSet
  deriving DecidableEq, Repr

/-- The waiting-claim record (R82); WAITING carries its class mask and the remaining time of its wait timer. -/
inductive ClaimRec where
  | none
  | waiting (mask : ClassSet) (remaining : Nat)
  | granted (handle : BitVec 16)
  | expired
  deriving DecidableEq, Repr

/-- The tag of a stack entry (R96). -/
inductive StackTag where
  | voluntary | preempt
  deriving DecidableEq, Repr

/-- One entry of a suspension stack (R96). -/
structure StackEntry where
  frame : FrameId
  tag   : StackTag
  deriving DecidableEq, Repr

/-- A notice in a preempt latch: who asks, and for which class (R108). -/
structure Urgent where
  requester : PortId
  cls       : ClassId
  deriving DecidableEq, Repr

/-- The preempt latch (R108); PENDING carries the remaining grace in ms where a grace timer runs. -/
inductive Latch where
  | clear
  | pending (notice : Urgent) (grace : Option Nat)
  | serving (served : Urgent)
  | servingPending (served pending : Urgent)
  deriving DecidableEq, Repr

/-- Why a port was fenced (R139). -/
inductive FenceReason where
  | lease | brk
  deriving DecidableEq, Repr

/-- A notice record: its kind and the arguments of that kind (chapter 9, section 9.2). -/
inductive Notice where
  | classReady (cls : ClassId)
  | preemptTaken (target : PortId) (cls : ClassId)
  | preemptDone (target : PortId) (cls : ClassId)
  | preemptExpired (target : PortId) (cls : ClassId)
  | preemptCancelled (target : PortId) (cls : ClassId)
  | preemptWithdrawn (requester : PortId) (cls : ClassId)
  | isolated (handle : BitVec 16) (reason : IsoReason)
  | reclaimed (handle : BitVec 16) (fenced : PortId)
  | fenceReport (reason : FenceReason) (reclaimed discarded : Nat) (waiting : Bool) (cancelled : Nat)
  | overflow
  deriving DecidableEq, Repr

/-- What the Port Table, the Suspension Stacks, the Preempt Latches and the Notice Queues hold for one port. The
hold set and the filling list are oldest first, the stack top first, the notice queue oldest first. -/
structure Port where
  state    : PortState
  epoch    : BitVec 16
  settings : Option Settings
  hold     : List FrameId
  filling  : List FrameId
  claim    : ClaimRec
  stack    : List StackEntry
  latch    : Latch
  notices  : List Notice
  deriving DecidableEq, Repr

/-- The blocks behind the Host Ports. The Wait List names the ports whose records wait, oldest first (R83), and the
Isolation List the isolated frames, oldest first (R160). -/
structure Hub where
  frames    : Vector Frame 64
  blocks    : Vector Block 128
  memory    : Memory
  classes   : Vector ClassRec 8
  ports     : Vector Port 4
  waitList  : List PortId
  isolation : List FrameId
  deriving DecidableEq, Repr

/-! ### The Host Ports (chapter 11) -/

/-- The requests of R178. -/
inductive ReqKind where
  | join | leave | renew | status | hubInfo | subscribe
  | parkOpen | parkWrite | parkClose | parkAbort
  | claim | readImage | writeImage | edit | returnFrame | repark | retire
  | claimWait | claimResult | claimCancel
  | suspend | resumeTop
  | preempt | takePreempt | endPreempt
  | isolationList | inspect | isolationWrite | repair | discard
  | noticeRead | classSet | classGet
  deriving DecidableEq, Repr

/-- A request that has passed the link checks. Its header and trailer are computed from it (R173): its reserved bits
are zero, its payload length is the length of its payload, and its trailer is its frame check. -/
structure Request where
  kind    : ReqKind
  tag     : Tag
  payload : List Word
  deriving DecidableEq, Repr

/-- The result codes of R179. -/
inductive Result where
  | ok | empty | waiting | granted | cancelled | expired | none | posted | latched
  | linkError | malformed | unknownRequest | sequence
  | notJoined | fenced | alreadyJoined | busyHolding
  | badValue | badHandle | invalid | readOnly
  | holdFull | stackFull | stackEmpty | fillLimit | classFull | noFrame | noSpace | waitExists
  | outOfOrder | incomplete | modified
  | memoryError | checkMismatch
  | preemptLevel | self | targetOffline | classDisabled | alreadyPending | latchFull | notPending | notServing
  | holding | nested
  | population
  deriving DecidableEq, Repr

/-- What a request is answered: a result code and payload words. -/
structure Reply where
  result  : Result
  payload : List Word
  deriving DecidableEq, Repr

/-- A response in a response buffer or a replay cache, less the flags and the trailer, which are made each time it is
sent (R177). -/
structure Response where
  tag   : Tag
  reply : Reply
  deriving DecidableEq, Repr

/-- The record of a replay cache: header and trailer of the request last taken, and the response given to it. The
tag of the request is the tag of the response (R175). -/
structure CacheRec where
  header   : Word
  trailer  : Word
  response : Response
  deriving DecidableEq, Repr

/-- One Host Port: its request slot, its response buffer, the OVERRUN flag of the outstanding request (R174), its
replay cache, and the words the hub sent on HSOn in the port's last window. -/
structure Link where
  slot     : Option Request
  response : Option Response
  overrun  : Bool
  cache    : Option CacheRec
  hso      : List Word
  deriving DecidableEq, Repr

/-- Whether the hub receives frames (R148): not yet, with the ticks counted since RESET_N was released, or ready. -/
inductive Readiness where
  | starting (ticks : Nat)
  | ready
  deriving DecidableEq, Repr

/-! ### The whole part -/

/-- The whole part: the hub, the four Host Ports, the pointer of the Admission Arbiter (R176), its readiness, and
the queue of the commands that wait, first in, first out. -/
structure State where
  hub       : Hub
  links     : Vector Link 4
  arbiter   : PortId
  readiness : Readiness
  pending   : List Instr
  deriving DecidableEq, Repr

/-- Why the machine stops with a fault. No command of the hub stops it: each has the effect the spec gives it. The
type is empty, and that is safe: there is no fault to reach. -/
inductive Fault where
  deriving DecidableEq, Repr

/-- Why a command has no meaning. -/
inductive Refusal where
  /-- Raised by an arm of `exec` whose command the model gives no meaning yet: safe, since nothing can be proved of a
  next state. No arm raises it now. -/
  | notModelled (mnemonic : String)
  deriving DecidableEq, Repr

/-! ### Hub reset (R147) -/

/-- A frame after hub reset: FREE, generation 1 (R1). -/
def Frame.reset : Frame := { gen := 1, ctx := none }

/-- A block after hub reset: in the free set, undamaged, its record empty (R16). -/
def Block.reset : Block := { free := true, damaged := false, rewritten := 0 }

/-- The Image Store's words after hub reset: every stored word zero (R16). -/
def Memory.reset : Memory := { cells := [] }

/-- A class record and its queue after hub reset (R22, R24). -/
def ClassRec.reset : ClassRec :=
  { enabled := true, limit := Config.limitReset, aging := 0, population := 0, queue := [] }

/-- A port after hub reset (R127, R147). -/
def Port.reset : Port :=
  { state := .offline, epoch := 0, settings := none, hold := [], filling := [], claim := .none, stack := [],
    latch := .clear, notices := [] }

/-- The blocks behind the Host Ports after hub reset (R147). -/
def Hub.reset : Hub :=
  { frames := Vector.replicate 64 Frame.reset
    blocks := Vector.replicate 128 Block.reset
    memory := Memory.reset
    classes := Vector.replicate 8 ClassRec.reset
    ports := Vector.replicate 4 Port.reset
    waitList := []
    isolation := [] }

/-- A Host Port after hub reset (R147). -/
def Link.reset : Link := { slot := none, response := none, overrun := false, cache := none, hso := [] }

/-- The machine right after hub reset: every block as R147 says, not yet ready (R148), no command waiting. -/
def State.reset : State :=
  { hub := Hub.reset
    links := Vector.replicate 4 Link.reset
    arbiter := 0
    readiness := .starting 0
    pending := [] }

end Sys2Proof.Machine
end

