-- ==== Sys2Proof/Machine/Codes.lean ====
section
/-!
DEFINITION. The request codes and result codes of the link (R178, R179).
-/
namespace Sys2Proof.Machine

/-- The request code of a request (R178). -/
def ReqKind.code : ReqKind → BitVec 8
  | .join => 0x01 | .leave => 0x02 | .renew => 0x03 | .status => 0x04 | .hubInfo => 0x05 | .subscribe => 0x06
  | .parkOpen => 0x10 | .parkWrite => 0x11 | .parkClose => 0x12 | .parkAbort => 0x13
  | .claim => 0x20 | .readImage => 0x21 | .writeImage => 0x22 | .edit => 0x23
  | .returnFrame => 0x24 | .repark => 0x25 | .retire => 0x26
  | .claimWait => 0x28 | .claimResult => 0x29 | .claimCancel => 0x2A
  | .suspend => 0x30 | .resumeTop => 0x31
  | .preempt => 0x38 | .takePreempt => 0x39 | .endPreempt => 0x3A
  | .isolationList => 0x40 | .inspect => 0x41 | .isolationWrite => 0x42 | .repair => 0x43 | .discard => 0x44
  | .noticeRead => 0x48
  | .classSet => 0x50 | .classGet => 0x51

/-- Every request the hub recognises, in the order of R178. -/
def ReqKind.all : List ReqKind :=
  [.join, .leave, .renew, .status, .hubInfo, .subscribe, .parkOpen, .parkWrite, .parkClose, .parkAbort,
   .claim, .readImage, .writeImage, .edit, .returnFrame, .repark, .retire, .claimWait, .claimResult, .claimCancel,
   .suspend, .resumeTop, .preempt, .takePreempt, .endPreempt, .isolationList, .inspect, .isolationWrite, .repair,
   .discard, .noticeRead, .classSet, .classGet]

/-- The request of a code, where the hub recognises the code (R178). -/
def ReqKind.ofCode (code : BitVec 8) : Option ReqKind := ReqKind.all.find? (fun k => k.code == code)

/-- The result code of a result (R179). -/
def Result.code : Result → BitVec 8
  | .ok => 0x00 | .empty => 0x01 | .waiting => 0x02 | .granted => 0x03 | .cancelled => 0x04 | .expired => 0x05
  | .none => 0x06 | .posted => 0x07 | .latched => 0x08
  | .linkError => 0x10 | .malformed => 0x11 | .unknownRequest => 0x12 | .sequence => 0x13
  | .notJoined => 0x18 | .fenced => 0x19 | .alreadyJoined => 0x1A | .busyHolding => 0x1B
  | .badValue => 0x20 | .badHandle => 0x21 | .invalid => 0x22 | .readOnly => 0x23
  | .holdFull => 0x28 | .stackFull => 0x29 | .stackEmpty => 0x2A | .fillLimit => 0x2B | .classFull => 0x2C
  | .noFrame => 0x2D | .noSpace => 0x2E | .waitExists => 0x2F
  | .outOfOrder => 0x30 | .incomplete => 0x31 | .modified => 0x32
  | .memoryError => 0x38 | .checkMismatch => 0x39
  | .preemptLevel => 0x40 | .self => 0x41 | .targetOffline => 0x42 | .classDisabled => 0x43
  | .alreadyPending => 0x44 | .latchFull => 0x45 | .notPending => 0x46 | .notServing => 0x47
  | .holding => 0x48 | .nested => 0x49
  | .population => 0x50

end Sys2Proof.Machine
end

