-- ==== Sys2Proof/Machine/Operands.lean ====
section
/-!
DEFINITION. Every operand form of the requests: handles (R4), the argument words of R180 and the forms R178 asks of
a payload. A reader answers `none` for a payload that breaks its form: that request is answered BAD_VALUE (R178).
-/
namespace Sys2Proof.Machine

/-! ### Bits, frame check and image check -/

/-- The `n` bits of a word from bit `lo` upward. -/
def bits (w : Word) (lo n : Nat) : BitVec n := w.extractLsb' lo n

/-- Bit `k` of a word. -/
def bit (w : Word) (k : Nat) : Bool := w.getLsbD k

/-- The bits of `mask` are zero in the word: its unused bits (R178, R180). -/
def clearIn (w mask : Word) : Bool := w &&& mask == 0#32

/-- The sum, modulo 65536, of the upper and lower 16-bit halves of every word: the frame check of R173 and the image
check of R21. -/
def halfSum (ws : List Word) : BitVec 16 :=
  ws.foldl (fun acc w => acc + bits w 16 16 + bits w 0 16) 0#16

/-! ### Handles (R4, R180) -/

/-- The handle of frame `i` in generation `g`: g · 64 + i. -/
def handleOf (g : BitVec 10) (i : FrameId) : BitVec 16 := g ++ BitVec.ofFin (w := 6) i

/-- The index field of a handle. -/
def handleIndex (h : BitVec 16) : FrameId := (h.extractLsb' 0 6).toFin

/-- The generation field of a handle. -/
def handleGen (h : BitVec 16) : BitVec 10 := h.extractLsb' 6 10

/-- The generation that follows `g`: one more, and 1 after 1023 (R5). -/
def nextGen (g : BitVec 10) : BitVec 10 := if g = 1023#10 then 1#10 else g + 1#10

/-! ### Periods -/

/-- 10 to 60000 ms: a lease period (R129), and an aging interval or grace period that is not 0. -/
def inPeriod (n : Nat) : Bool := decide (Config.periodMin ≤ n ∧ n ≤ Config.periodMax)

/-- 0, or 10 to 60000 ms: a grace period (R129) or an aging interval (R33). -/
def zeroOrPeriod (n : Nat) : Bool := n == 0 || inPeriod n

/-- 1 to 60000 ms: a wait timeout (R84). -/
def waitPeriod (n : Nat) : Bool := decide (1 ≤ n ∧ n ≤ Config.periodMax)

/-! ### Control records (R15) -/

/-- A trapped-access record as a request carries it: its direction (true for WRITE), its width in bytes, and the
write value where one is carried. -/
structure RawTrap where
  address : Word
  write   : Bool
  width   : Nat
  value   : Option Word
  deriving DecidableEq, Repr

/-- A control record as a request carries it, with every value its fields can express. -/
structure RawControl where
  cls        : ClassId
  base       : Nat
  affinity   : PortSet
  resume     : Nat
  waitMarker : Bool
  trap       : Option RawTrap
  deriving DecidableEq, Repr

/-- The base priority of a field value, within 0 to 3. -/
def prioOf (n : Nat) : Option Prio := if h : n < 4 then some ⟨n, h⟩ else none

/-- The width of a trapped access: 1, 2 or 4 bytes. -/
def widthOf : Nat → Option Width
  | 1 => some .one
  | 2 => some .two
  | 4 => some .four
  | _ => none

/-- The bytes of a width. -/
def Width.bytes : Width → Nat
  | .one => 1
  | .two => 2
  | .four => 4

/-- The direction with its write value: a write value exactly when the direction is WRITE. -/
def accessOf : Bool → Option Word → Option Access
  | false, none => some .read
  | true, some v => some (.write v)
  | _, _ => none

/-- The trapped-access record of a request, where its form is right. -/
def RawTrap.check (t : RawTrap) : Option Trap :=
  match accessOf t.write t.value, widthOf t.width with
  | some a, some w => some { address := t.address, access := a, width := w }
  | _, _ => none

/-- The trapped access of a request: none is right, a record is right when its form is. -/
def trapOf : Option RawTrap → Option (Option Trap)
  | none => some none
  | some t => t.check.map some

/-- The resume mode of a field value (0 NEXT, 1 WAIT, 2 RETRY), where the wait marker and the trapped access allow
it. -/
def resumeOf (n : Nat) (waitMarker hasTrap : Bool) : Option ResumeMode :=
  match n with
  | 0 => some .next
  | 1 => if waitMarker then some .wait else none
  | 2 => if hasTrap then some .retry else none
  | _ => none

/-- The coding of a resume mode (R180). -/
def ResumeMode.code : ResumeMode → BitVec 2
  | .next => 0
  | .wait => 1
  | .retry => 2

/-- The validity of a control record (R15, R41): the record where it is valid, none where it is INVALID. -/
def RawControl.check (classEnabled : Bool) (r : RawControl) : Option Control :=
  if !classEnabled || r.affinity == 0#4 then none
  else
    match prioOf r.base, resumeOf r.resume r.waitMarker r.trap.isSome, trapOf r.trap with
    | some b, some m, some t =>
      some { cls := r.cls, base := b, affinity := r.affinity, resume := m, waitMarker := r.waitMarker, trap := t }
    | _, _, _ => none

/-- A trapped access as a request would carry it. -/
def Trap.raw (t : Trap) : RawTrap :=
  match t.access with
  | .read => { address := t.address, write := false, width := t.width.bytes, value := none }
  | .write v => { address := t.address, write := true, width := t.width.bytes, value := some v }

/-- A control record as a request would carry it. -/
def Control.raw (c : Control) : RawControl :=
  { cls := c.cls, base := c.base.val, affinity := c.affinity, resume := c.resume.code.toNat,
    waitMarker := c.waitMarker, trap := c.trap.map Trap.raw }

/-! ### Field changes (R14, R180) -/

/-- One field change of an EDIT or REPAIR. -/
structure FieldChange where
  selector : BitVec 4
  value    : BitVec 4
  deriving DecidableEq, Repr

/-- The selector names a read-only field: class, origin, cause, wait marker, trapped access or image length. -/
def FieldChange.readOnly (f : FieldChange) : Bool := decide (4 ≤ f.selector.toNat ∧ f.selector.toNat ≤ 9)

/-- The selector names a field of the hub's bookkeeping, or no field. -/
def FieldChange.noField (f : FieldChange) : Bool := decide (f.selector.toNat = 0 ∨ 10 ≤ f.selector.toNat)

/-- The control record with the named field at the value given: 1 base priority, 2 affinity, 3 resume mode. -/
def FieldChange.apply (f : FieldChange) (r : RawControl) : RawControl :=
  if f.selector = 1#4 then { r with base := f.value.toNat }
  else if f.selector = 2#4 then { r with affinity := f.value }
  else if f.selector = 3#4 then { r with resume := f.value.toNat }
  else r

/-- A field change word: selector in bits 3..0, value in bits 11..8, the rest unused. -/
def readChange (w : Word) : Option FieldChange :=
  if clearIn w 0xFFFFF0F0#32 then some { selector := bits w 0 4, value := bits w 8 4 } else none

/-! ### Payloads without a handle -/

/-- A payload of no word: LEAVE, RENEW, STATUS, HUB_INFO, CLAIM_RESULT, CLAIM_CANCEL, RESUME_TOP, TAKE_PREEMPT,
END_PREEMPT, ISOLATION_LIST. -/
def readNothing : List Word → Option Unit
  | [] => some ()
  | _ => none

/-- The session settings of JOIN: lease and grace period in word 1, class mask in word 2. -/
def readJoin : List Word → Option Settings
  | [w1, w2] =>
    if clearIn w2 0xFFFFFF00#32 then
      some { lease := (bits w1 0 16).toNat, grace := (bits w1 16 16).toNat, mask := bits w2 0 8 }
    else none
  | _ => none

/-- The class mask of CLAIM and SUBSCRIBE. -/
def readMask : List Word → Option ClassSet
  | [w] => if clearIn w 0xFFFFFF00#32 then some (bits w 0 8) else none
  | _ => none

/-- The class mask and timeout of CLAIM_WAIT. -/
def readMaskTimeout : List Word → Option (ClassSet × Nat)
  | [w] => if clearIn w 0x0000FF00#32 then some (bits w 0 8, (bits w 16 16).toNat) else none
  | _ => none

/-- The target and class of PREEMPT. -/
def readPreempt : List Word → Option (PortId × ClassId)
  | [w] => if clearIn w 0xFFFFF8FC#32 then some ((bits w 0 2).toFin, (bits w 8 3).toFin) else none
  | _ => none

/-- The arguments of CLASS_SET. -/
structure ClassSetArgs where
  cls     : ClassId
  enabled : Bool
  limit   : Nat
  aging   : Nat
  deriving DecidableEq, Repr

/-- CLASS_SET: class, enabled, limit, aging interval. -/
def readClassSet : List Word → Option ClassSetArgs
  | [w] =>
    if clearIn w 0x000080F0#32 then
      some { cls := (bits w 0 3).toFin, enabled := bit w 3, limit := (bits w 8 7).toNat,
             aging := (bits w 16 16).toNat }
    else none
  | _ => none

/-- The three bits of CLASS_GET (a class) and NOTICE_READ (a count). -/
def readThree : List Word → Option (BitVec 3)
  | [w] => if clearIn w 0xFFFFFFF8#32 then some (bits w 0 3) else none
  | _ => none

/-- The arguments of PARK_OPEN. -/
structure ParkOpenArgs where
  control : RawControl
  len     : Nat
  check   : BitVec 16
  deriving DecidableEq, Repr

/-- The control record in word 1 of PARK_OPEN, with the trapped access given. -/
def parkControl (w : Word) (trap : Option RawTrap) : RawControl :=
  { cls := (bits w 0 3).toFin, base := (bits w 4 2).toNat, affinity := bits w 8 4, resume := (bits w 12 2).toNat,
    waitMarker := bit w 16, trap := trap }

/-- The trapped access of PARK_OPEN from word 1 and the words after word 2: with the present bit clear there are
none, with it set there is the address, and the write value where one is carried. The direction and width of word 1
are read only with the present bit set (notes/assumptions/10.md). -/
def parkTrap (w : Word) : List Word → Option (Option RawTrap)
  | [] => if bit w 17 then none else some none
  | [a] => if bit w 17 then some (some (rawTrap w a none)) else none
  | [a, v] => if bit w 17 then some (some (rawTrap w a (some v))) else none
  | _ => none
where
  /-- The record with this address and write value. -/
  rawTrap (w a : Word) (v : Option Word) : RawTrap :=
    { address := a, write := bit w 18, width := (bits w 20 3).toNat, value := v }

/-- PARK_OPEN: two words, three with a trapped access, four with its write value. -/
def readParkOpen : List Word → Option ParkOpenArgs
  | w1 :: w2 :: rest =>
    if clearIn w1 0x8088C0C8#32 && clearIn w2 0xFFFF0000#32 then
      (parkTrap w1 rest).map fun t =>
        { control := parkControl w1 t, len := (bits w1 24 7).toNat, check := bits w2 0 16 }
    else none
  | _ => none

/-! ### Payloads with a handle: the handle word and the words after it -/

/-- The handle of a handle word. -/
def wordHandle (w : Word) : BitVec 16 := bits w 0 16

/-- A handle alone: PARK_CLOSE, PARK_ABORT, RETURN, RETIRE, SUSPEND, DISCARD. -/
def readHandleOnly (w : Word) (rest : List Word) : Option Unit :=
  if clearIn w 0xFFFF0000#32 && rest.isEmpty then some () else none

/-- The offset and the image words of PARK_WRITE, WRITE_IMAGE and ISOLATION_WRITE: 1 to 16 words. -/
def readWrite (w : Word) (rest : List Word) : Option (Nat × List Word) :=
  if clearIn w 0xFFC00000#32 && decide (1 ≤ rest.length ∧ rest.length ≤ Config.moveMax) then
    some ((bits w 16 6).toNat, rest)
  else none

/-- The offset and the count of READ_IMAGE and INSPECT, of any value their fields hold. -/
def readRange (w : Word) (rest : List Word) : Option (Nat × Nat) :=
  if clearIn w 0xF8000000#32 && rest.isEmpty then some ((bits w 16 6).toNat, (bits w 22 5).toNat) else none

/-- The field change of EDIT. -/
def readEdit (w : Word) : List Word → Option FieldChange
  | [f] => if clearIn w 0xFFFF0000#32 then readChange f else none
  | _ => none

/-- The new image check of REPARK. -/
def readRepark (w : Word) (rest : List Word) : Option (BitVec 16) :=
  if rest.isEmpty then some (bits w 16 16) else none

/-- The arguments of REPAIR: 0 to 3 field changes, and a new image check where one is carried. -/
structure RepairArgs where
  changes : List FieldChange
  check   : Option (BitVec 16)
  deriving DecidableEq, Repr

/-- The words after the field changes of REPAIR: the new check where bit 18 of the handle word is set, else none. -/
def readRepairCheck (present : Bool) : List Word → Option (Option (BitVec 16))
  | [] => if present then none else some none
  | [c] => if present && clearIn c 0xFFFF0000#32 then some (some (bits c 0 16)) else none
  | _ => none

/-- REPAIR: as many field changes as bits 17..16 say, then the new check where bit 18 is set. -/
def readRepair (w : Word) (rest : List Word) : Option RepairArgs :=
  let n := (bits w 16 2).toNat
  if clearIn w 0xFFF80000#32 && decide (n ≤ rest.length) then
    match (rest.take n).mapM readChange, readRepairCheck (bit w 18) (rest.drop n) with
    | some cs, some c => some { changes := cs, check := c }
    | _, _ => none
  else none

end Sys2Proof.Machine
end

