-- ==== Sys2Proof/Machine/Views.lean ====
section
/-!
DEFINITION. The one way to read and to write each part of the hub, and the views of a frame that are computed rather
than stored.
-/
namespace Sys2Proof.Machine

/-! ### The words of the Image Store -/

/-- The word of an address in a list of cells: 0 where the list has none (R16). -/
def lookupCell : List (Nat × Word) → Nat → Word
  | [], _ => 0#32
  | (a, w) :: rest, k => if a = k then w else lookupCell rest k

/-- The list of cells with one more word stored; the word 0 is stored by leaving its address out. -/
def putCell : List (Nat × Word) → Nat → Word → List (Nat × Word)
  | [], k, v => if v = 0#32 then [] else [(k, v)]
  | (a, w) :: rest, k, v =>
    if k < a then (if v = 0#32 then (a, w) :: rest else (k, v) :: (a, w) :: rest)
    else if k = a then (if v = 0#32 then rest else (k, v) :: rest)
    else (a, w) :: putCell rest k v

/-- The stored word of an address. -/
def Memory.read (m : Memory) (a : Nat) : Word := lookupCell m.cells a

/-- The store with the word of one address replaced. -/
def Memory.write (m : Memory) (a : Nat) (v : Word) : Memory := { cells := putCell m.cells a v }

/-- The words of the Image Store: 128 blocks of 8. -/
def memoryWords : Nat := 1024

/-- The one form in which the words are kept: addresses strictly rising and within the store, no word 0. -/
abbrev Memory.wf (m : Memory) : Prop :=
  m.cells.Pairwise (fun x y => x.1 < y.1) ∧ ∀ x ∈ m.cells, x.2 ≠ 0#32 ∧ x.1 < memoryWords

/-! ### Frames, blocks, classes and ports -/

/-- The record of a frame. -/
def Hub.frame (h : Hub) (i : FrameId) : Frame := h.frames.get i

/-- The fields of a frame that is not FREE. -/
def Hub.ctx (h : Hub) (i : FrameId) : Option Context := (h.frame i).ctx

/-- The handle of a frame at this moment (R4). -/
def Hub.handle (h : Hub) (i : FrameId) : BitVec 16 := handleOf (h.frame i).gen i

/-- The hub with one frame record replaced. -/
def Hub.setFrame (h : Hub) (i : FrameId) (f : Frame) : Hub := { h with frames := h.frames.set i f }

/-- The hub with the fields of one frame replaced, its generation kept. -/
def Hub.putCtx (h : Hub) (i : FrameId) (c : Context) : Hub := h.setFrame i { h.frame i with ctx := some c }

/-- What is kept with one block. -/
def Hub.block (h : Hub) (b : BlockId) : Block := h.blocks.get b

/-- The hub with what is kept with one block replaced. -/
def Hub.setBlock (h : Hub) (b : BlockId) (x : Block) : Hub := { h with blocks := h.blocks.set b x }

/-- The record and queue of a class. -/
def Hub.cls (h : Hub) (c : ClassId) : ClassRec := h.classes.get c

/-- The hub with the record and queue of one class changed. -/
def Hub.updClass (h : Hub) (c : ClassId) (f : ClassRec → ClassRec) : Hub :=
  { h with classes := h.classes.set c (f (h.cls c)) }

/-- What the hub holds for one port. -/
def Hub.port (h : Hub) (p : PortId) : Port := h.ports.get p

/-- The hub with what it holds for one port changed. -/
def Hub.updPort (h : Hub) (p : PortId) (f : Port → Port) : Hub :=
  { h with ports := h.ports.set p (f (h.port p)) }

/-- One Host Port. -/
def State.link (s : State) (p : PortId) : Link := s.links.get p

/-- The part with one Host Port changed. -/
def State.updLink (s : State) (p : PortId) (f : Link → Link) : State :=
  { s with links := s.links.set p (f (s.link p)) }

/-! ### Views of a frame -/

/-- The effective priority (R7): the band of a QUEUED frame, the base priority in every other state. -/
def Context.eff (c : Context) : Prio :=
  match c.place with
  | .queued e _ => e
  | _ => c.control.base

/-- The owner of a frame, present while it is FILLING, HELD or STACKED (R9). -/
def Place.owner : Place → Option PortId
  | .filling o _ => some o
  | .queued _ _ => none
  | .held o _ => some o
  | .stacked o => some o
  | .isolated _ => none

/-- The effective priority of a frame, 0 for a FREE one. -/
def Hub.effOf (h : Hub) (i : FrameId) : Prio :=
  match h.ctx i with
  | some c => c.eff
  | none => 0

/-- The class of a frame is in a class mask. -/
def Context.inMask (c : Context) (m : ClassSet) : Bool := m.getLsbD c.control.cls.val

/-- The port is in the affinity of the frame. -/
def Context.allows (c : Context) (p : PortId) : Bool := c.control.affinity.getLsbD p.val

/-- FILLING, owned by the port: PARK_WRITE, PARK_CLOSE, PARK_ABORT (R6). -/
def Place.isFillingOf (p : PortId) : Place → Bool
  | .filling o _ => o == p
  | _ => false

/-- HELD, owned by the port: WRITE_IMAGE, RETURN, REPARK, RETIRE, SUSPEND (R6). -/
def Place.isHeldOf (p : PortId) : Place → Bool
  | .held o _ => o == p
  | _ => false

/-- HELD or STACKED, owned by the port: READ_IMAGE, EDIT (R6). -/
def Place.isKeptOf (p : PortId) : Place → Bool
  | .held o _ => o == p
  | .stacked o => o == p
  | _ => false

/-- ISOLATED: INSPECT, ISOLATION_WRITE, REPAIR, DISCARD (R6). -/
def Place.isIsolated : Place → Bool
  | .isolated _ => true
  | _ => false

/-- The modified mark of a HELD frame; no in every other state, where it is absent. -/
def Place.modified : Place → Bool
  | .held _ m => m
  | _ => false

/-- The fill pointer of a FILLING frame; 0 in every other state, where it is absent. -/
def Place.fill : Place → Nat
  | .filling _ n => n
  | _ => 0

/-- The frame a handle names in its current generation, in a state and with an owner the request accepts (R6). -/
def Hub.find (h : Hub) (accepts : Place → Bool) (hd : BitVec 16) : Option (FrameId × Context) :=
  if (h.frame (handleIndex hd)).gen = handleGen hd then
    match h.ctx (handleIndex hd) with
    | some c => if accepts c.place then some (handleIndex hd, c) else none
    | none => none
  else none

/-! ### Views of a port -/

/-- The port is ONLINE. -/
def PortState.isOnline : PortState → Bool
  | .online _ => true
  | _ => false

/-- The port is ONLINE. -/
def Hub.online (h : Hub) (p : PortId) : Bool := (h.port p).state.isOnline

/-- The port has a claim on the Wait List. -/
def ClaimRec.isWaiting : ClaimRec → Bool
  | .waiting _ _ => true
  | _ => false

/-- The hold count of a port: the members of its hold set, and one while it has a waiting claim (R59). -/
def Port.holdCount (x : Port) : Nat := x.hold.length + (if x.claim.isWaiting then 1 else 0)

/-- The preempt grace period of the port's last JOIN, 0 where it has not joined since hub reset (R112). -/
def Port.gracePeriod (x : Port) : Nat :=
  match x.settings with
  | some t => t.grace
  | none => 0

/-- The grace timer as it starts: at the grace period, unless that is 0 (R112). -/
def Port.graceStart (x : Port) : Option Nat := if x.gracePeriod = 0 then none else some x.gracePeriod

/-- The subscription mask of the port includes the class (R37). -/
def Port.subscribes (x : Port) (c : ClassId) : Bool :=
  match x.settings with
  | some t => t.mask.getLsbD c.val
  | none => false

/-- The ports, in rising order. -/
def allPorts : List PortId := [0, 1, 2, 3]

/-- The classes, in rising order. -/
def allClasses : List ClassId := [0, 1, 2, 3, 4, 5, 6, 7]

end Sys2Proof.Machine
end

