-- ==== Sys2Proof/Machine/Flags.lean ====
section
/-!
DEFINITION. The flags of the hub: the attention line ATTNn of each port (R157), which is a level that follows its
three sources, and the flags of a response header (R177).
-/
namespace Sys2Proof.Machine

/-- The preempt latch is PENDING. -/
def Latch.isPending : Latch → Bool
  | .pending _ _ => true
  | _ => false

/-- The preempt latch is SERVING or SERVING_PENDING. -/
def Latch.isServing : Latch → Bool
  | .serving _ => true
  | .servingPending _ _ => true
  | _ => false

/-- The claim record is GRANTED or EXPIRED, a result not yet read. -/
def ClaimRec.isUnread : ClaimRec → Bool
  | .granted _ => true
  | .expired => true
  | _ => false

/-- A port has something to collect: a notice, an unread claim result, or a PENDING latch (R157). -/
def Port.calls (x : Port) : Bool := !x.notices.isEmpty || x.claim.isUnread || x.latch.isPending

/-- The hub is ready to receive frames (R148). -/
def State.isReady (s : State) : Bool := s.readiness == .ready

/-- The level of the attention line of a port: asserted while the port has something to collect, and held deasserted
until the hub is ready (R148, R157). -/
def State.attn (s : State) (p : PortId) : Bool := s.isReady && (s.hub.port p).calls

end Sys2Proof.Machine
end

