-- ==== Sys2Proof/Machine/Layout.lean ====
section
/-!
DEFINITION. The layouts of section 11.9: headers and trailers (R173, R177, R180), the frame header record and the
outcome word (R181), the notice record and the capability record (R182), and the STATUS response (R183).
-/
namespace Sys2Proof.Machine

/-- A single value of a response, in bits 15..0 of a word of its own (R181). -/
def valueWord (n : Nat) : Word := 0#16 ++ BitVec.ofNat 16 n

/-- A 16-bit value of a response in a word of its own. -/
def halfWord (x : BitVec 16) : Word := 0#16 ++ x

/-! ### Request and response frames -/

/-- The header word of a request (R180). -/
def Request.header (r : Request) : Word := r.kind.code ++ r.tag ++ BitVec.ofNat 6 r.payload.length ++ 0#14

/-- The trailer word over a header and a payload: the frame check in the low half, zero in the upper half (R173). -/
def trailerOf (header : Word) (payload : List Word) : Word := halfWord (halfSum (header :: payload))

/-- The trailer word of a request. -/
def Request.trailer (r : Request) : Word := trailerOf r.header r.payload

/-- The words a host sends for a request. -/
def Request.words (r : Request) : List Word := r.header :: (r.payload ++ [r.trailer])

/-- The header word of a response as it is sent, with the ATTN copy and the OVERRUN flag (R177, R180). -/
def Response.header (x : Response) (attn overrun : Bool) : Word :=
  x.reply.result.code ++ x.tag ++ BitVec.ofNat 6 x.reply.payload.length ++ BitVec.ofBool attn ++
    BitVec.ofBool overrun ++ 0#12

/-- The words of a response frame as it is sent (R177). -/
def Response.words (x : Response) (attn overrun : Bool) : List Word :=
  x.header attn overrun ::
    (x.reply.payload ++ [trailerOf (x.header attn overrun) x.reply.payload])

/-! ### The frame header record (R181) -/

/-- The state code of a frame in use. -/
def Place.code : Place → BitVec 3
  | .filling _ _ => 1
  | .queued _ _ => 2
  | .held _ _ => 3
  | .stacked _ => 4
  | .isolated _ => 5

/-- The coding of a cause, 0 when absent. -/
def causeCode : Option Cause → BitVec 3
  | none => 0
  | some .parked => 1
  | some .returned => 2
  | some .reclaimed => 3
  | some .repaired => 4

/-- The coding of an isolation reason: 1 CHECK_MISMATCH, 2 MEMORY_ERROR. -/
def IsoReason.code : IsoReason → BitVec 2
  | .checkMismatch => 1
  | .memoryError => 2

/-- The isolation reason field: 0 when absent. -/
def Place.reasonCode : Place → BitVec 2
  | .isolated r => r.code
  | _ => 0

/-- The modified field: 0 absent, 1 no, 2 yes. -/
def Place.modifiedCode : Place → BitVec 2
  | .held _ false => 1
  | .held _ true => 2
  | _ => 0

/-- The owner field: bit 2 set when present, the port in bits 1..0. -/
def Place.ownerCode (x : Place) : BitVec 3 :=
  match x.owner with
  | some p => 1#1 ++ BitVec.ofFin (w := 2) p
  | none => 0

/-- Direction, write value present, and write value of a trapped access. -/
def Access.codes : Access → BitVec 1 × BitVec 1 × Word
  | .read => (0, 0, 0)
  | .write v => (1, 1, v)

/-- Words 2 to 4 of the record: image check and trapped access, the absent one coded 0. -/
def trapWords (check : BitVec 16) : Option Trap → List Word
  | none => [halfWord check, 0#32, 0#32]
  | some t =>
    [0#10 ++ t.access.codes.2.1 ++ BitVec.ofNat 3 t.width.bytes ++ t.access.codes.1 ++ 1#1 ++ check,
     t.address, t.access.codes.2.2]

/-- The frame header record of a frame in use, with the effective priority to report (R67, R181). -/
def headerRecord (hd : BitVec 16) (c : Context) (eff : Prio) : List Word :=
  (0#4 ++ BitVec.ofFin (w := 2) eff ++ BitVec.ofFin (w := 2) c.control.base ++ 0#1 ++
      BitVec.ofFin (w := 3) c.control.cls ++ 0#1 ++ c.place.code ++ hd) ::
    (0#5 ++ BitVec.ofNat 7 c.len ++ 0#1 ++ c.place.reasonCode ++ c.place.modifiedCode ++
      BitVec.ofBool c.control.waitMarker ++ c.control.resume.code ++ causeCode c.cause ++ c.place.ownerCode ++
      BitVec.ofFin (w := 2) c.origin ++ c.control.affinity) ::
    trapWords c.check c.control.trap

/-! ### Outcome words and notice words (R181) -/

/-- What became of a frame that a request gave up. -/
inductive FrameOutcome where
  | queued
  | granted (port : PortId)
  | isolated (reason : IsoReason)
  deriving DecidableEq, Repr

/-- The outcome word: the handle in bits 15..0, the outcome in bits 17..16, its argument in bits 19..18. -/
def outcomeWord (hd : BitVec 16) : FrameOutcome → Word
  | .queued => 0#12 ++ 0#2 ++ 0#2 ++ hd
  | .granted p => 0#12 ++ BitVec.ofFin (w := 2) p ++ 1#2 ++ hd
  | .isolated r => 0#12 ++ r.code ++ 2#2 ++ hd

/-- The notice word: the requester in bits 1..0 and the class in bits 10..8. -/
def noticeWord (n : Urgent) : Word :=
  0#21 ++ BitVec.ofFin (w := 3) n.cls ++ 0#6 ++ BitVec.ofFin (w := 2) n.requester

/-- Handles two to a word, the earlier one in bits 15..0, the upper half of an odd last word zero. -/
def pairWords : List (BitVec 16) → List Word
  | [] => []
  | [a] => [halfWord a]
  | a :: b :: rest => (b ++ a) :: pairWords rest

/-! ### Notice records (R182) -/

/-- Word 0 of a notice record: kind, port, class and handle. -/
def noticeHead (kind : BitVec 8) (port : PortId) (cls : ClassId) (hd : BitVec 16) : Word :=
  hd ++ 0#1 ++ BitVec.ofFin (w := 3) cls ++ 0#2 ++ BitVec.ofFin (w := 2) port ++ kind

/-- The reason bit of a FENCE_REPORT: 0 LEASE, 1 BREAK. -/
def FenceReason.code : FenceReason → BitVec 1
  | .lease => 0
  | .brk => 1

/-- The two words of a notice record. -/
def Notice.words : Notice → List Word
  | .classReady c => [noticeHead 1 0 c 0, 0]
  | .preemptTaken p c => [noticeHead 2 p c 0, 0]
  | .preemptDone p c => [noticeHead 3 p c 0, 0]
  | .preemptExpired p c => [noticeHead 4 p c 0, 0]
  | .preemptCancelled p c => [noticeHead 5 p c 0, 0]
  | .preemptWithdrawn p c => [noticeHead 6 p c 0, 0]
  | .isolated hd r => [noticeHead 7 0 0 hd, 0#30 ++ r.code]
  | .reclaimed hd p => [noticeHead 8 p 0 hd, 0]
  | .fenceReport r n d w k =>
    [noticeHead 9 0 0 0,
     0#10 ++ BitVec.ofNat 2 k ++ 0#3 ++ BitVec.ofBool w ++ 0#2 ++ BitVec.ofNat 2 d ++ BitVec.ofNat 4 n ++ 0#7 ++ r.code]
  | .overflow => [noticeHead 10 0 0 0, 0]

/-! ### The capability record (R182) -/

/-- The coding of a port state: 0 OFFLINE, 1 ONLINE, 2 FENCED. -/
def PortState.code : PortState → BitVec 2
  | .offline => 0
  | .online _ => 1
  | .fenced => 2

/-- The capability record: model code 0464h and revision 01h, the counts, the port states and the epochs (R137,
R182). -/
def Hub.capability (h : Hub) : List Word :=
  [0#8 ++ 0x01#8 ++ 0x0464#16,
   0#4 ++ 8#4 ++ 128#8 ++ 64#8 ++ 0#4 ++ 4#4,
   0#24 ++ (h.port 3).state.code ++ (h.port 2).state.code ++ (h.port 1).state.code ++ (h.port 0).state.code,
   (h.port 1).epoch ++ (h.port 0).epoch,
   (h.port 3).epoch ++ (h.port 2).epoch]

/-! ### The STATUS response (R183) -/

/-- Word 3: the remaining lease, with bit 16 set when present. -/
def leaseWord : PortState → Word
  | .online n => 0#15 ++ 1#1 ++ BitVec.ofNat 16 n
  | _ => 0

/-- Words 4 and 5: the waiting-claim record. -/
def claimWords : ClaimRec → List Word
  | .none => [0, 0]
  | .waiting m n => [0#16 ++ m ++ 0#6 ++ 1#2, valueWord n]
  | .granted hd => [2, halfWord hd]
  | .expired => [3, 0]

/-- The served part of word 6, bits 10..2: notice present, requester, class. -/
def servedBits : Option Urgent → BitVec 9
  | none => 0
  | some n => BitVec.ofFin (w := 3) n.cls ++ 0#2 ++ BitVec.ofFin (w := 2) n.requester ++ 0#1 ++ 1#1

/-- The pending part of word 6, bits 18..11: notice present, requester, class. -/
def pendingBits : Option Urgent → BitVec 8
  | none => 0
  | some n => BitVec.ofFin (w := 3) n.cls ++ 0#2 ++ BitVec.ofFin (w := 2) n.requester ++ 1#1

/-- Word 6: the latch. -/
def latchWord (l : Latch) : Word :=
  match l with
  | .clear => 0
  | .pending n _ => 0#13 ++ pendingBits (some n) ++ servedBits none ++ 1#2
  | .serving v => 0#13 ++ pendingBits none ++ servedBits (some v) ++ 2#2
  | .servingPending v n => 0#13 ++ pendingBits (some n) ++ servedBits (some v) ++ 3#2

/-- Word 7: the remaining grace, with bit 16 set when a grace timer runs. -/
def graceWord : Latch → Word
  | .pending _ (some n) => 0#15 ++ 1#1 ++ BitVec.ofNat 16 n
  | _ => 0

/-- The coding of a stack tag: 0 VOLUNTARY, 1 PREEMPT. -/
def StackTag.code : StackTag → BitVec 1
  | .voluntary => 0
  | .preempt => 1

/-- The fill pointer of a frame, as the filling entries report it. -/
def Hub.fillOf (h : Hub) (i : FrameId) : Nat :=
  match h.ctx i with
  | some c => c.place.fill
  | none => 0

/-- The session settings as STATUS reports them; a port that has never joined answers no STATUS. -/
def Port.shownSettings (x : Port) : Settings := x.settings.getD { lease := 0, grace := 0, mask := 0 }

/-- The payload of the STATUS response. -/
def Hub.statusWords (h : Hub) (p : PortId) : List Word :=
  let x := h.port p
  let t := x.shownSettings
  [0#7 ++ BitVec.ofNat 5 x.notices.length ++ 0#2 ++ x.state.code ++ x.epoch,
   BitVec.ofNat 16 t.grace ++ BitVec.ofNat 16 t.lease,
   0#14 ++ BitVec.ofNat 2 x.filling.length ++ BitVec.ofNat 4 x.stack.length ++ 0#1 ++
     BitVec.ofNat 3 x.hold.length ++ t.mask,
   leaseWord x.state] ++
  claimWords x.claim ++ [latchWord x.latch, graceWord x.latch] ++
  x.hold.map (fun i => halfWord (h.handle i)) ++
  x.stack.map (fun e => 0#15 ++ e.tag.code ++ h.handle e.frame) ++
  x.filling.map (fun i => 0#9 ++ BitVec.ofNat 7 (h.fillOf i) ++ h.handle i)

end Sys2Proof.Machine
end

