-- ==== Sys2Proof/Machine/Ops.lean ====
section
/-!
DEFINITION. The shared operations of the hub: the image store, allocation, notices, queues, the Wait List offer,
isolation, the claim selection, the fence, and the checks every request meets. The meanings are written over them.
-/
namespace Sys2Proof.Machine

/-! ### The image of a frame (R16, R19, R20, R21) -/

/-- The address of word `k` of an image: its place in the block the block list names (R16). -/
def Context.address (c : Context) (k : Nat) : Option Nat := (c.blocks[k / 8]?).map (fun b => 8 * b.val + k % 8)

/-- The stored word at image offset `k`. -/
def Hub.readWord (h : Hub) (c : Context) (k : Nat) : Word :=
  match c.address k with
  | some a => h.memory.read a
  | none => 0#32

/-- `n` stored words from image offset `off` onward, in image order. -/
def Hub.readWords (h : Hub) (c : Context) (off n : Nat) : List Word :=
  (List.range n).map (fun k => h.readWord c (off + k))

/-- The word positions in use in the block at position `k` of the block list of an image of `len` words (R16): bit j
for word position j. -/
def usedMask (len k : Nat) : BitVec 8 := BitVec.ofNat 8 (2 ^ min 8 (len - 8 * k) - 1)

/-- What a write of word position `pos` does to the marks of a block whose positions in use are `used`: while the
damage mark is set the position joins the rewritten-word record, and once the record holds every position in use
the mark is cleared and the record emptied (R19). -/
def Block.rewrite (x : Block) (used : BitVec 8) (pos : Nat) : Block :=
  if x.damaged then
    let r := x.rewritten ||| (1#8 <<< pos)
    if r &&& used = used then { x with damaged := false, rewritten := 0 } else { x with rewritten := r }
  else x

/-- One image word stored at offset `k` (R16), with its effect on the damage of its block (R19). -/
def Hub.storeWord (h : Hub) (c : Context) (k : Nat) (v : Word) : Hub :=
  match c.blocks[k / 8]? with
  | none => h
  | some b =>
    { h.setBlock b ((h.block b).rewrite (usedMask c.len (k / 8)) (k % 8)) with
      memory := h.memory.write (8 * b.val + k % 8) v }

/-- Image words stored from offset `k` onward. -/
def Hub.storeWords (h : Hub) (c : Context) (k : Nat) : List Word → Hub
  | [] => h
  | v :: vs => (h.storeWord c k v).storeWords c (k + 1) vs

/-- The block at position `k` of the block list is damaged. -/
def Hub.damagedAt (h : Hub) (c : Context) (k : Nat) : Bool :=
  match c.blocks[k]? with
  | some b => (h.block b).damaged
  | none => false

/-- A block that holds one of the `n` words from offset `off` onward is damaged: the blocks from the one of word
`off` to the one of word `off + n − 1`, and no other (R68, R164). -/
def Hub.damagedIn (h : Hub) (c : Context) (off n : Nat) : Bool :=
  (List.range n).any (fun k => h.damagedAt c ((off + k) / 8))

/-- The image-check computation over every block of the frame (R21): none for a match, or why it failed. -/
def Hub.checkImage (h : Hub) (c : Context) : Option IsoReason :=
  if c.blocks.any (fun b => (h.block b).damaged) then some .memoryError
  else if halfSum (h.readWords c 0 c.len) = c.check then none
  else some .checkMismatch

/-! ### Allocation (R17, R18) -/

/-- The lowest-numbered FREE frame (R17). -/
def Hub.lowestFree (h : Hub) : Option FrameId := (List.finRange 64).find? (fun i => (h.ctx i).isNone)

/-- The free block set, in ascending order. -/
def Hub.freeBlocks (h : Hub) : List BlockId := (List.finRange 128).filter (fun b => (h.block b).free)

/-- The blocks an image of `len` words lists: ceil(len ÷ 8) (R16). -/
def blocksFor (len : Nat) : Nat := (len + 7) / 8

/-- The hub with each listed block put into the free set, or taken from it; the marks of the block are kept. -/
def Hub.setFree (h : Hub) (free : Bool) : List BlockId → Hub
  | [] => h
  | b :: bs => (h.setBlock b { h.block b with free := free }).setFree free bs

/-- A frame returns to FREE (R18), less its leaving the collection of its state: its blocks rejoin the free set, the
population of its class falls by one, its generation advances, and every other field becomes absent. -/
def Hub.freeFrame (h : Hub) (i : FrameId) (c : Context) : Hub :=
  ((h.setFree true c.blocks).updClass c.control.cls (fun x => { x with population := x.population - 1 })).setFrame i
    { gen := nextGen (h.frame i).gen, ctx := none }

/-! ### Notices (R150, R151) -/

/-- A notice queue with one more notice posted: an OVERFLOW record takes the last place, and a full queue drops it
(R151). -/
def appendNotice (q : List Notice) (n : Notice) : List Notice :=
  if q.length + 1 < Config.noticeMax then q ++ [n]
  else if q.length + 1 = Config.noticeMax then q ++ [.overflow]
  else q

/-- A notice posted to a port, when it is ONLINE (R150). -/
def Hub.post (h : Hub) (p : PortId) (n : Notice) : Hub :=
  if h.online p then h.updPort p (fun x => { x with notices := appendNotice x.notices n }) else h

/-- CLASS_READY posted to a port that subscribes to the class (R37). -/
def Hub.postIfSubscribed (h : Hub) (c : ClassId) (p : PortId) : Hub :=
  if (h.port p).subscribes c then h.post p (.classReady c) else h

/-- CLASS_READY posted to every ONLINE port whose subscription mask includes the class (R37). -/
def Hub.postReady (h : Hub) (c : ClassId) : Hub := allPorts.foldl (fun g p => g.postIfSubscribed c p) h

/-! ### Entry to a queue and the Wait List offer (R25 to R27, R87 to R89) -/

/-- A queue with frames inserted at the head of band `b`: before every frame of that band or a lower one (R24). -/
def insertHead (eff : FrameId → Prio) (b : Prio) (new q : List FrameId) : List FrameId :=
  q.takeWhile (fun j => decide (b < eff j)) ++ new ++ q.dropWhile (fun j => decide (b < eff j))

/-- A queue with frames inserted at the tail of band `b`: after every frame of that band or a higher one (R24). -/
def insertTail (eff : FrameId → Prio) (b : Prio) (new q : List FrameId) : List FrameId :=
  q.takeWhile (fun j => decide (b ≤ eff j)) ++ new ++ q.dropWhile (fun j => decide (b ≤ eff j))

/-- The causes whose entry goes to the head of the base band: RETURNED and RECLAIMED (R26). -/
def Cause.entersAtHead : Cause → Bool
  | .returned => true
  | .reclaimed => true
  | _ => false

/-- The insertion of R25 and R26: the frame becomes QUEUED in its base band with waited time 0, at the head or the
tail of the band as its cause says, and CLASS_READY is posted when the queue was empty (R37). -/
def Hub.enqueue (h : Hub) (i : FrameId) (c : Context) (cause : Cause) : Hub :=
  let q := (h.cls c.control.cls).queue
  let q' := if cause.entersAtHead then insertHead h.effOf c.control.base [i] q
            else insertTail h.effOf c.control.base [i] q
  let g := (h.putCtx i { c with cause := some cause, place := .queued c.control.base 0 }).updClass c.control.cls
    (fun x => { x with queue := q' })
  if q.isEmpty then g.postReady c.control.cls else g

/-- A waiting record takes the frame: its class mask holds the frame's class, its port is in the affinity, and its
port is not the one the offer passes over (R87). -/
def Hub.claimTakes (h : Hub) (c : Context) (passed : Option PortId) (q : PortId) : Bool :=
  match (h.port q).claim with
  | .waiting m _ => c.inMask m && c.allows q && !(passed == some q)
  | _ => false

/-- The Wait List offer: the oldest record that takes the frame (R87). -/
def Hub.offer (h : Hub) (c : Context) (passed : Option PortId) : Option PortId :=
  h.waitList.find? (fun q => h.claimTakes c passed q)

/-- A frame enters the hold set of a port: HELD, modified mark no, at the end of the hold set (R60). -/
def Hub.enterHold (h : Hub) (i : FrameId) (c : Context) (p : PortId) : Hub :=
  (h.putCtx i { c with place := .held p false }).updPort p (fun x => { x with hold := x.hold ++ [i] })

/-- The grant of R88: the frame enters the hold set, the record leaves the Wait List and becomes GRANTED with the
frame's handle, and its timer stops. -/
def Hub.grant (h : Hub) (i : FrameId) (c : Context) (q : PortId) : Hub :=
  let g := (h.enterHold i c q).updPort q (fun x => { x with claim := .granted (h.handle i) })
  { g with waitList := h.waitList.erase q }

/-- A frame that has left its collection is made available (R25, R89): its cause is set, it is offered to the Wait
List, and it is granted to the record that takes it or inserted into the queue of its class. The answer names the
receiving port. -/
def Hub.makeAvailable (h : Hub) (i : FrameId) (c : Context) (cause : Cause) (passed : Option PortId) :
    Hub × FrameOutcome :=
  match h.offer c passed with
  | some q => (h.grant i { c with cause := some cause } q, .granted q)
  | none => (h.enqueue i c cause, .queued)

/-! ### Leaving the collections of a port -/

/-- A frame leaves the filling list, the entries after it closing up (R39). -/
def Hub.leaveFilling (h : Hub) (p : PortId) (i : FrameId) : Hub :=
  h.updPort p (fun x => { x with filling := x.filling.erase i })

/-- A frame leaves the hold set, the members after it closing up (R58). -/
def Hub.leaveHold (h : Hub) (p : PortId) (i : FrameId) : Hub :=
  h.updPort p (fun x => { x with hold := x.hold.erase i })

/-- The entry of a frame leaves the stack from wherever it lies, the others closing the gap (R103). -/
def Hub.leaveStack (h : Hub) (p : PortId) (i : FrameId) : Hub :=
  h.updPort p (fun x => { x with stack := x.stack.eraseP (fun e => e.frame == i) })

/-- A frame leaves the collection of its owner that records it. -/
def Hub.leaveOwner (h : Hub) (i : FrameId) (c : Context) : Hub :=
  match c.place with
  | .filling o _ => h.leaveFilling o i
  | .held o _ => h.leaveHold o i
  | .stacked o => h.leaveStack o i
  | _ => h

/-! ### Isolation (R20, R160) -/

/-- An ISOLATED notice to the origin and, if different, to the port that owned the frame just before (R20). -/
def Hub.postIsolated (h : Hub) (i : FrameId) (c : Context) (r : IsoReason) : Hub :=
  let g := h.post c.origin (.isolated (h.handle i) r)
  match c.place.owner with
  | some o => if o = c.origin then g else g.post o (.isolated (h.handle i) r)
  | none => g

/-- A frame leaves its owner and enters isolation: it joins the Isolation List at its tail, and the notices are
posted (R20, R160). -/
def Hub.isolate (h : Hub) (i : FrameId) (c : Context) (r : IsoReason) : Hub :=
  let g := (h.leaveOwner i c).putCtx i { c with place := .isolated r }
  { g with isolation := g.isolation ++ [i] }.postIsolated i c r

/-! ### Claims (R62, R63) -/

/-- A queued frame of effective priority `e` that the port may claim. -/
def Hub.eligibleAt (h : Hub) (p : PortId) (e : Prio) (i : FrameId) : Bool :=
  match h.ctx i with
  | some c => c.allows p && c.eff == e
  | none => false

/-- The claim selection of R62: the highest effective priority, then the lowest class of the mask, then the first in
queue order. -/
def Hub.claimSelect (h : Hub) (p : PortId) (m : ClassSet) : Option FrameId :=
  [3, 2, 1, 0].findSome? fun e =>
    allClasses.findSome? fun c =>
      if m.getLsbD c.val then (h.cls c).queue.find? (h.eligibleAt p e) else none

/-- The selected frame leaves its queue and enters the hold set (R28, R60). -/
def Hub.claimFrame (h : Hub) (p : PortId) (i : FrameId) (c : Context) : Hub :=
  (h.updClass c.control.cls (fun x => { x with queue := x.queue.erase i })).enterHold i c p

/-- The frame header record of a frame as it now stands, with the effective priority to report (R67). -/
def Hub.recordOf (h : Hub) (i : FrameId) (eff : Prio) : List Word :=
  match h.ctx i with
  | some c => headerRecord (h.handle i) c eff
  | none => []

/-- The frame header record of a frame as it now stands. -/
def Hub.record (h : Hub) (i : FrameId) : List Word := h.recordOf i (h.effOf i)

/-- The claim of the best eligible frame: the hub after it, and the frame header record to return, with the effective
priority the frame had in its queue (R28, R63). None where no frame is eligible. -/
def Hub.claimBest (h : Hub) (p : PortId) (m : ClassSet) : Option (Hub × List Word) :=
  match h.claimSelect p m with
  | none => none
  | some i =>
    match h.ctx i with
    | none => none
    | some c => some (h.claimFrame p i c, (h.claimFrame p i c).recordOf i c.eff)

/-! ### Waiting claims (R90, R91, R141) -/

/-- A record leaves the Wait List, those behind it moving up, and takes a new state; its timer stops (R83). -/
def Hub.endWait (h : Hub) (p : PortId) (r : ClaimRec) : Hub :=
  { h.updPort p (fun x => { x with claim := r }) with waitList := h.waitList.erase p }

/-! ### The fence (R139 to R144) -/

/-- The frames of a filling list return to FREE, oldest first (R140). -/
def Hub.freeAll (h : Hub) : List FrameId → Hub
  | [] => h
  | i :: is =>
    match h.ctx i with
    | some c => (h.freeFrame i c).freeAll is
    | none => h.freeAll is

/-- Step 3: the waiting-claim record becomes NONE (R141). -/
def Hub.fenceClaim (h : Hub) (p : PortId) : Hub := h.endWait p .none

/-- The notices of a latch that a fence cancels, the served one first (R142). -/
def Latch.notices : Latch → List Urgent
  | .clear => []
  | .pending n _ => [n]
  | .serving v => [v]
  | .servingPending v n => [v, n]

/-- Step 4: each requester of a notice is sent PREEMPT_CANCELLED, and the latch is CLEAR (R142). -/
def Hub.fenceLatch (h : Hub) (p : PortId) : Hub :=
  ((h.port p).latch.notices.foldl (fun g n => g.post n.requester (.preemptCancelled p n.cls)) h).updPort p
    (fun x => { x with latch := .clear })

/-- One frame of step 5: it is made available with cause RECLAIMED, passing over the fenced port, and RECLAIMED is
posted to its origin, unless that is the fenced port (R143). -/
def Hub.reclaim (h : Hub) (p : PortId) (i : FrameId) : Hub :=
  match h.ctx i with
  | none => h
  | some c =>
    let g := (h.makeAvailable i c .reclaimed (some p)).1
    if c.origin = p then g else g.post c.origin (.reclaimed (h.handle i) p)

/-- The frames a fence reclaims, in its order: the hold set newest first, then the stack top first (R143). -/
def Port.reclaimOrder (x : Port) : List FrameId := x.hold.reverse ++ x.stack.map (·.frame)

/-- Step 5: every frame of the hold set and the stack leaves the port (R143). -/
def Hub.fenceReclaim (h : Hub) (p : PortId) : Hub :=
  (h.port p).reclaimOrder.foldl (fun g i => g.reclaim p i)
    (h.updPort p (fun x => { x with hold := [], stack := [] }))

/-- The FENCE_REPORT of a port about to be fenced (R144): what steps 2 to 5 will count. -/
def Port.fenceReport (x : Port) (why : FenceReason) : Notice :=
  .fenceReport why x.reclaimOrder.length x.filling.length x.claim.isWaiting x.latch.notices.length

/-- The fence of a port (R139 to R144), less the replay cache, which its Host Port keeps. -/
def Hub.fence (h : Hub) (p : PortId) (why : FenceReason) : Hub :=
  let x := h.port p
  let h1 := h.updPort p (fun x => { x with state := .fenced })
  let h2 := (h1.freeAll x.filling).updPort p (fun x => { x with filling := [] })
  let h3 := h2.fenceClaim p
  let h4 := h3.fenceLatch p
  let h5 := h4.fenceReclaim p
  h5.updPort p (fun y => { y with notices := [x.fenceReport why] })

/-! ### Aging (R29, R30, R31) -/

/-- A frame of band `b` that is due for promotion under aging interval `a`: it has waited `a` in its band (R30). -/
def Hub.isDue (h : Hub) (a : Nat) (b : Prio) (i : FrameId) : Bool :=
  match h.ctx i with
  | some c =>
    match c.place with
    | .queued e w => e == b && decide (a ≤ w)
    | _ => false
  | none => false

/-- The frames of band `b` of class `c` that are due, in queue order; none where aging is off or `b` is band 3. -/
def Hub.dueFrames (h : Hub) (c : ClassId) (b : Prio) : List FrameId :=
  if (h.cls c).aging = 0 ∨ b = 3 then [] else (h.cls c).queue.filter (h.isDue (h.cls c).aging b)

/-- Frames take a new band and a waited time of 0. -/
def Hub.setBand (h : Hub) (e : Prio) : List FrameId → Hub
  | [] => h
  | i :: is =>
    match h.ctx i with
    | some c => (h.putCtx i { c with place := .queued e 0 }).setBand e is
    | none => h.setBand e is

/-- The promotion of the due frames of one band together: they join the tail of the next higher band in the order
they held (R30, R31). -/
def Hub.promote (h : Hub) (c : ClassId) (b : Prio) : Hub :=
  let due := h.dueFrames c b
  if due.isEmpty then h
  else
    let rest := (h.cls c).queue.filter (fun i => !due.contains i)
    (h.updClass c (fun x => { x with queue := insertTail h.effOf (b + 1) due rest })).setBand (b + 1) due

/-- The waited times of queued frames of one class restart at 0 (R32). -/
def Hub.restartWaits (h : Hub) : List FrameId → Hub
  | [] => h
  | i :: is =>
    match h.ctx i with
    | some c =>
      match c.place with
      | .queued e _ => (h.putCtx i { c with place := .queued e 0 }).restartWaits is
      | _ => h.restartWaits is
    | none => h.restartWaits is

/-! ### The checks every request meets, and its answer -/

/-- An answer without payload. -/
def Reply.bare (r : Result) : Reply := { result := r, payload := [] }

/-- An answer of OK with a payload. -/
def Reply.okWith (ws : List Word) : Reply := { result := .ok, payload := ws }

/-- The session check of R128: the refusal of a request by the state of its port, if any. -/
def sessionRefusal (k : ReqKind) : PortState → Option Result
  | .online _ => none
  | .offline =>
    match k with
    | .join => none
    | .hubInfo => none
    | _ => some .notJoined
  | .fenced =>
    match k with
    | .join => none
    | .hubInfo => none
    | .status => none
    | .noticeRead => none
    | _ => some .fenced

/-- A request behind its session check (R128). -/
def Hub.session (h : Hub) (k : ReqKind) (p : PortId) (body : Hub × Reply) : Hub × Reply :=
  match sessionRefusal k (h.port p).state with
  | some r => (h, .bare r)
  | none => body

/-- A request behind its form check: a payload that breaks its form is answered BAD_VALUE (R178). -/
def Hub.form {α : Type} (h : Hub) (args : Option α) (body : α → Hub × Reply) : Hub × Reply :=
  match args with
  | none => (h, .bare .badValue)
  | some a => body a

/-- A request behind its handle check (R6) and then its form check (R178); an empty payload is answered BAD_VALUE in
the place of the handle check. -/
def Hub.handled {α : Type} (h : Hub) (accepts : Place → Bool) (payload : List Word)
    (args : Word → List Word → Option α) (body : FrameId → Context → α → Hub × Reply) : Hub × Reply :=
  match payload with
  | [] => (h, .bare .badValue)
  | w :: rest =>
    match h.find accepts (wordHandle w) with
    | none => (h, .bare .badHandle)
    | some (i, c) => h.form (args w rest) (body i c)

/-! ### Admission (R176) -/

/-- The port the Admission Arbiter admits next: the first filled slot from the pointer upward, modulo 4 (R176). -/
def State.nextAdmitted (s : State) : Option PortId :=
  [s.arbiter, s.arbiter + 1, s.arbiter + 2, s.arbiter + 3].find? (fun p => (s.link p).slot.isSome)

/-- The arbiter admits this request of this port now: the hub is ready, the request stands in the port's slot, and
the port is the one the arbiter admits next. -/
def State.admitsNow (s : State) (p : PortId) (r : Request) : Bool :=
  s.isReady && (s.link p).slot == some r && s.nextAdmitted == some p

/-- The request has been taken and answered: its slot is empty, the pointer names the port after it, its response is
in the buffer, and the replay cache records it, or is emptied for a LEAVE that is taken (R135, R175, R176). -/
def State.answered (s : State) (p : PortId) (r : Request) (h : Hub) (reply : Reply) : State :=
  let x : Response := { tag := r.tag, reply := reply }
  let cached := if r.kind = .leave ∧ reply.result = .ok then none
                else some { header := r.header, trailer := r.trailer, response := x }
  { s.updLink p (fun l => { l with slot := none, response := some x, cache := cached }) with
    hub := h, arbiter := p + 1 }

/-- The admission of a request: it is taken whole by its body, and answered. A request that the arbiter does not
admit now is turned away: nothing happens (notes/assumptions/1.md). -/
def State.admission (s : State) (p : PortId) (r : Request) (body : Hub × Reply) :
    Host.Outcome State Fault Refusal :=
  if s.admitsNow p r then .next (s.answered p r body.1 body.2) else .next s

end Sys2Proof.Machine
end

