-- ==== Sys2Proof/Machine/Park.lean ====
section
/-!
DEFINITION. Parking a context (chapter 3): PARK_OPEN, PARK_WRITE, PARK_CLOSE, PARK_ABORT.
-/
namespace Sys2Proof.Machine

/-- The fields of a frame just opened (R42). -/
def openedContext (p : PortId) (c : Control) (len : Nat) (check : BitVec 16) (blocks : List BlockId) : Context :=
  { control := c, origin := p, cause := none, len := len, blocks := blocks, check := check,
    place := .filling p 0 }

/-- The park opens (R17, R42): the frame and its blocks are taken, the frame is FILLING with these fields, it joins
the filling list, and the population of its class rises by one. -/
def Hub.openPark (h : Hub) (p : PortId) (i : FrameId) (c : Control) (len : Nat) (check : BitVec 16) : Hub :=
  let bs := h.freeBlocks.take (blocksFor len)
  (((h.setFree false bs).putCtx i (openedContext p c len check bs)).updPort p
    (fun x => { x with filling := x.filling ++ [i] })).updClass c.cls
    (fun x => { x with population := x.population + 1 })

/-- PARK_OPEN by its conditions in the order of R40, and as R42 and R43 give when it is taken. -/
def Hub.parkOpenWith (h : Hub) (p : PortId) (a : ParkOpenArgs) : Hub × Reply :=
  match a.control.check (h.cls a.control.cls).enabled with
  | none => (h, .bare .invalid)
  | some c =>
    if a.len < 1 ∨ Config.imageMax < a.len then (h, .bare .badValue)
    else if Config.fillMax ≤ (h.port p).filling.length then (h, .bare .fillLimit)
    else if (h.cls c.cls).limit ≤ (h.cls c.cls).population then (h, .bare .classFull)
    else
      match h.lowestFree with
      | none => (h, .bare .noFrame)
      | some i =>
        if h.freeBlocks.length < blocksFor a.len then (h, .bare .noSpace)
        else (h.openPark p i c a.len a.check, .okWith [halfWord (h.handle i)])

/-- PARK_OPEN (R40 to R43). -/
def Hub.takeParkOpen (h : Hub) (p : PortId) (payload : List Word) : Hub × Reply :=
  h.session .parkOpen p (h.form (readParkOpen payload) (h.parkOpenWith p))

/-- PARK_OPEN. -/
def execParkOpen (p : PortId) (tag : Tag) (payload : List Word) (s : State) : Host.Outcome State Fault Refusal :=
  s.admission p { kind := .parkOpen, tag := tag, payload := payload } (s.hub.takeParkOpen p payload)

/-- The words are stored at the fill pointer, which moves past them (R46). -/
def Hub.fillWords (h : Hub) (p : PortId) (i : FrameId) (c : Context) (off : Nat) (ws : List Word) : Hub :=
  (h.storeWords c off ws).putCtx i { c with place := .filling p (off + ws.length) }

/-- PARK_WRITE by the conditions of R45, and as R46 gives when it is taken. -/
def Hub.parkWriteWith (h : Hub) (p : PortId) (i : FrameId) (c : Context) (a : Nat × List Word) : Hub × Reply :=
  if a.1 ≠ c.place.fill then (h, { result := .outOfOrder, payload := [valueWord c.place.fill] })
  else if c.len < a.1 + a.2.length then (h, .bare .badValue)
  else (h.fillWords p i c a.1 a.2, .okWith [valueWord (a.1 + a.2.length)])

/-- PARK_WRITE (R45, R46). -/
def Hub.takeParkWrite (h : Hub) (p : PortId) (payload : List Word) : Hub × Reply :=
  h.session .parkWrite p (h.handled (Place.isFillingOf p) payload readWrite (h.parkWriteWith p))

/-- PARK_WRITE. -/
def execParkWrite (p : PortId) (tag : Tag) (payload : List Word) (s : State) : Host.Outcome State Fault Refusal :=
  s.admission p { kind := .parkWrite, tag := tag, payload := payload } (s.hub.takeParkWrite p payload)

/-- A frame whose image has just been checked is isolated where the check failed, and else made available with the
cause given, no claim passed over (R49, R50, R77). -/
def Hub.settleChecked (h : Hub) (i : FrameId) (c : Context) (cause : Cause) : Hub × FrameOutcome :=
  match h.checkImage c with
  | some r => (h.isolate i c r, .isolated r)
  | none => (h.leaveOwner i c).makeAvailable i c cause none

/-- PARK_CLOSE as R48 to R51 give it. -/
def Hub.parkCloseWith (h : Hub) (i : FrameId) (c : Context) : Hub × Reply :=
  if c.place.fill < c.len then (h, { result := .incomplete, payload := [valueWord c.place.fill] })
  else
    let r := h.settleChecked i c .parked
    (r.1, .okWith [outcomeWord (h.handle i) r.2])

/-- PARK_CLOSE (R48 to R51). -/
def Hub.takeParkClose (h : Hub) (p : PortId) (payload : List Word) : Hub × Reply :=
  h.session .parkClose p
    (h.handled (Place.isFillingOf p) payload readHandleOnly (fun i c _ => h.parkCloseWith i c))

/-- PARK_CLOSE. -/
def execParkClose (p : PortId) (tag : Tag) (payload : List Word) (s : State) : Host.Outcome State Fault Refusal :=
  s.admission p { kind := .parkClose, tag := tag, payload := payload } (s.hub.takeParkClose p payload)

/-- PARK_ABORT (R53). -/
def Hub.takeParkAbort (h : Hub) (p : PortId) (payload : List Word) : Hub × Reply :=
  h.session .parkAbort p
    (h.handled (Place.isFillingOf p) payload readHandleOnly
      (fun i c _ => ((h.leaveFilling p i).freeFrame i c, .bare .ok)))

/-- PARK_ABORT. -/
def execParkAbort (p : PortId) (tag : Tag) (payload : List Word) (s : State) : Host.Outcome State Fault Refusal :=
  s.admission p { kind := .parkAbort, tag := tag, payload := payload } (s.hub.takeParkAbort p payload)

end Sys2Proof.Machine
end

