-- ==== Sys2Proof/Machine/Claim.lean ====
section
/-!
DEFINITION. Claiming and holding (chapter 4): CLAIM, READ_IMAGE, WRITE_IMAGE, EDIT, RETURN, REPARK, RETIRE.
-/
namespace Sys2Proof.Machine

/-- CLAIM by the conditions of R61, and as R63 and R64 give when it is taken. -/
def Hub.claimWith (h : Hub) (p : PortId) (m : ClassSet) : Hub × Reply :=
  if m = 0#8 then (h, .bare .badValue)
  else if Config.holdMax ≤ (h.port p).holdCount then (h, .bare .holdFull)
  else
    match h.claimBest p m with
    | none => (h, .bare .empty)
    | some (g, ws) => (g, .okWith ws)

/-- CLAIM (R61 to R64). -/
def Hub.takeClaim (h : Hub) (p : PortId) (payload : List Word) : Hub × Reply :=
  h.session .claim p (h.form (readMask payload) (h.claimWith p))

/-- CLAIM. -/
def execClaim (p : PortId) (tag : Tag) (payload : List Word) (s : State) : Host.Outcome State Fault Refusal :=
  s.admission p { kind := .claim, tag := tag, payload := payload } (s.hub.takeClaim p payload)

/-- READ_IMAGE by the conditions of R68; a damaged block isolates the frame (R69, R70). -/
def Hub.readImageWith (h : Hub) (i : FrameId) (c : Context) (a : Nat × Nat) : Hub × Reply :=
  if a.2 < 1 ∨ Config.moveMax < a.2 ∨ c.len < a.1 + a.2 then (h, .bare .badValue)
  else if h.damagedIn c a.1 a.2 then
    (h.isolate i c .memoryError, { result := .memoryError, payload := [halfWord (h.handle i)] })
  else (h, .okWith (h.readWords c a.1 a.2))

/-- READ_IMAGE (R68 to R70). -/
def Hub.takeReadImage (h : Hub) (p : PortId) (payload : List Word) : Hub × Reply :=
  h.session .readImage p (h.handled (Place.isKeptOf p) payload readRange h.readImageWith)

/-- READ_IMAGE. -/
def execReadImage (p : PortId) (tag : Tag) (payload : List Word) (s : State) : Host.Outcome State Fault Refusal :=
  s.admission p { kind := .readImage, tag := tag, payload := payload } (s.hub.takeReadImage p payload)

/-- WRITE_IMAGE by the condition of R71: the words are stored and the modified mark becomes yes. -/
def Hub.writeImageWith (h : Hub) (p : PortId) (i : FrameId) (c : Context) (a : Nat × List Word) : Hub × Reply :=
  if c.len < a.1 + a.2.length then (h, .bare .badValue)
  else ((h.storeWords c a.1 a.2).putCtx i { c with place := .held p true }, .bare .ok)

/-- WRITE_IMAGE (R71). -/
def Hub.takeWriteImage (h : Hub) (p : PortId) (payload : List Word) : Hub × Reply :=
  h.session .writeImage p (h.handled (Place.isHeldOf p) payload readWrite (h.writeImageWith p))

/-- WRITE_IMAGE. -/
def execWriteImage (p : PortId) (tag : Tag) (payload : List Word) (s : State) : Host.Outcome State Fault Refusal :=
  s.admission p { kind := .writeImage, tag := tag, payload := payload } (s.hub.takeWriteImage p payload)

/-- EDIT by the conditions of R73, and as R74 gives when it is taken. -/
def Hub.editWith (h : Hub) (i : FrameId) (c : Context) (f : FieldChange) : Hub × Reply :=
  if f.readOnly then (h, .bare .readOnly)
  else if f.noField then (h, .bare .badValue)
  else
    match (f.apply c.control.raw).check (h.cls c.control.cls).enabled with
    | none => (h, .bare .invalid)
    | some k =>
      let g := h.putCtx i { c with control := k }
      (g, .okWith (g.record i))

/-- EDIT (R73, R74). -/
def Hub.takeEdit (h : Hub) (p : PortId) (payload : List Word) : Hub × Reply :=
  h.session .edit p (h.handled (Place.isKeptOf p) payload readEdit h.editWith)

/-- EDIT. -/
def execEdit (p : PortId) (tag : Tag) (payload : List Word) (s : State) : Host.Outcome State Fault Refusal :=
  s.admission p { kind := .edit, tag := tag, payload := payload } (s.hub.takeEdit p payload)

/-- After a RETURN has queued its frame, a claim of the returning port that the frame matches ends as EXPIRED (R90). -/
def Hub.returnEndsWait (h : Hub) (p : PortId) (c : Context) (o : FrameOutcome) : Hub :=
  if o = .queued ∧ h.claimTakes c none p = true then h.endWait p .expired else h

/-- RETURN by the condition of R75: it is refused while the frame is modified; else the frame leaves the hold set and
is made available, passing over the returning port. -/
def Hub.returnWith (h : Hub) (p : PortId) (i : FrameId) (c : Context) : Hub × Reply :=
  if c.place.modified then (h, .bare .modified)
  else
    let r := (h.leaveHold p i).makeAvailable i c .returned (some p)
    (r.1.returnEndsWait p c r.2, .okWith [outcomeWord (h.handle i) r.2])

/-- RETURN (R75, R76, R90). -/
def Hub.takeReturn (h : Hub) (p : PortId) (payload : List Word) : Hub × Reply :=
  h.session .returnFrame p
    (h.handled (Place.isHeldOf p) payload readHandleOnly (fun i c _ => h.returnWith p i c))

/-- RETURN. -/
def execReturn (p : PortId) (tag : Tag) (payload : List Word) (s : State) : Host.Outcome State Fault Refusal :=
  s.admission p { kind := .returnFrame, tag := tag, payload := payload } (s.hub.takeReturn p payload)

/-- REPARK as R77 gives it: the new check is set, the image is checked, and the frame leaves the hold set for the
Isolation List, a waiting claim or its queue. -/
def Hub.reparkWith (h : Hub) (i : FrameId) (c : Context) (check : BitVec 16) : Hub × Reply :=
  let r := h.settleChecked i { c with check := check } .parked
  (r.1, .okWith [outcomeWord (h.handle i) r.2])

/-- REPARK (R77, R78). -/
def Hub.takeRepark (h : Hub) (p : PortId) (payload : List Word) : Hub × Reply :=
  h.session .repark p (h.handled (Place.isHeldOf p) payload readRepark h.reparkWith)

/-- REPARK. -/
def execRepark (p : PortId) (tag : Tag) (payload : List Word) (s : State) : Host.Outcome State Fault Refusal :=
  s.admission p { kind := .repark, tag := tag, payload := payload } (s.hub.takeRepark p payload)

/-- RETIRE (R79). -/
def Hub.takeRetire (h : Hub) (p : PortId) (payload : List Word) : Hub × Reply :=
  h.session .retire p
    (h.handled (Place.isHeldOf p) payload readHandleOnly
      (fun i c _ => ((h.leaveHold p i).freeFrame i c, .bare .ok)))

/-- RETIRE. -/
def execRetire (p : PortId) (tag : Tag) (payload : List Word) (s : State) : Host.Outcome State Fault Refusal :=
  s.admission p { kind := .retire, tag := tag, payload := payload } (s.hub.takeRetire p payload)

end Sys2Proof.Machine
end

