-- ==== Sys2Proof/Machine/Classes.lean ====
section
/-!
DEFINITION. Setting and reading a class (chapter 2): CLASS_SET, CLASS_GET.
-/
namespace Sys2Proof.Machine

/-- The class record takes new settings, and the waited times of its queued frames restart when the aging interval
changes (R32, R34). -/
def Hub.setClassRecord (h : Hub) (a : ClassSetArgs) : Hub :=
  let g := h.updClass a.cls (fun x => { x with enabled := a.enabled, limit := a.limit, aging := a.aging })
  if a.aging = (h.cls a.cls).aging then g else g.restartWaits (h.cls a.cls).queue

/-- CLASS_SET by the conditions of R33, and as R34 gives when it is taken. -/
def Hub.classSetWith (h : Hub) (a : ClassSetArgs) : Hub × Reply :=
  if a.limit < 1 ∨ 64 < a.limit ∨ zeroOrPeriod a.aging = false then (h, .bare .badValue)
  else if a.enabled = false ∧ 0 < (h.cls a.cls).population then (h, .bare .population)
  else if a.limit < (h.cls a.cls).population then (h, .bare .population)
  else (h.setClassRecord a, .bare .ok)

/-- CLASS_SET (R33, R34). -/
def Hub.takeClassSet (h : Hub) (p : PortId) (payload : List Word) : Hub × Reply :=
  h.session .classSet p (h.form (readClassSet payload) h.classSetWith)

/-- CLASS_SET. -/
def execClassSet (p : PortId) (tag : Tag) (payload : List Word) (s : State) : Host.Outcome State Fault Refusal :=
  s.admission p { kind := .classSet, tag := tag, payload := payload } (s.hub.takeClassSet p payload)

/-- The length of a band of a queue (R36). -/
def Hub.bandLength (h : Hub) (c : ClassId) (b : Prio) : Nat :=
  ((h.cls c).queue.filter (fun i => h.effOf i == b)).length

/-- The ten items of CLASS_GET (R36). -/
def Hub.classItems (h : Hub) (c : ClassId) : List Nat :=
  let x := h.cls c
  [c.val, if x.enabled then 1 else 0, x.limit, x.aging, x.population, x.queue.length,
   h.bandLength c 3, h.bandLength c 2, h.bandLength c 1, h.bandLength c 0]

/-- CLASS_GET (R36). -/
def Hub.takeClassGet (h : Hub) (p : PortId) (payload : List Word) : Hub × Reply :=
  h.session .classGet p (h.form (readThree payload) fun c => (h, .okWith ((h.classItems c.toFin).map valueWord)))

/-- CLASS_GET. -/
def execClassGet (p : PortId) (tag : Tag) (payload : List Word) (s : State) : Host.Outcome State Fault Refusal :=
  s.admission p { kind := .classGet, tag := tag, payload := payload } (s.hub.takeClassGet p payload)

end Sys2Proof.Machine
end

