-- ==== Sys2Proof/Machine/Link.lean ====
section
/-!
DEFINITION. The host link (chapter 11): REQUEST_FRAME, READ_WINDOW, and BREAK (R146).

A window is one step. Its command says what the host sends on HSIn, word by word, and the words the hub sends on HSOn
are left in the `hso` of the port's link (notes/assumptions/6.md).
-/
namespace Sys2Proof.Machine

/-! ### What the hub sends (R172, R177) -/

/-- The words of the unread response, as the window would send them now; none without one. -/
def State.responseWords (s : State) (p : PortId) : List Word :=
  match (s.link p).response with
  | some x => x.words (s.attn p) (s.link p).overrun
  | none => []

/-- What the hub sends in a window of `n` words: the unread response, then IDLE words (R172). -/
def State.windowWords (s : State) (p : PortId) (n : Nat) : List Word :=
  (s.responseWords p ++ List.replicate n Config.idleWord).take n

/-- The window's words go out on HSOn. -/
def State.sendWindow (s : State) (p : PortId) (n : Nat) : State :=
  s.updLink p (fun l => { l with hso := s.windowWords p n })

/-- A window of `n` words ends: a response of which every word was sent is read, and leaves the buffer empty and the
OVERRUN flag clear; a response sent in part stays unread (R172, R174). -/
def State.endWindow (s : State) (p : PortId) (n : Nat) : State :=
  match (s.link p).response with
  | some x =>
    if x.reply.payload.length + 2 ≤ n then s.updLink p (fun l => { l with response := none, overrun := false })
    else s
  | none => s

/-- A window while the hub is not ready: IDLE words, and nothing is received (R148). -/
def State.idleWindow (s : State) (p : PortId) (n : Nat) : State :=
  s.updLink p (fun l => { l with hso := List.replicate n Config.idleWord })

/-! ### BREAK (R146) -/

/-- The unread response and the request waiting in the slot are discarded. -/
def State.dropOutstanding (s : State) (p : PortId) : State :=
  s.updLink p (fun l => { l with slot := none, response := none, overrun := false })

/-- The replay cache of a port is emptied. -/
def State.dropCache (s : State) (p : PortId) : State := s.updLink p (fun l => { l with cache := none })

/-- The fence of a port with the emptying of its replay cache (R139). -/
def State.fencePort (s : State) (p : PortId) (why : FenceReason) : State :=
  { s.dropCache p with hub := s.hub.fence p why }

/-- A port that is not ONLINE goes OFFLINE, its notice queue and replay cache emptied (R146). -/
def State.takeOffline (s : State) (p : PortId) : State :=
  { s.dropCache p with hub := s.hub.updPort p (fun x => { x with state := .offline, notices := [] }) }

/-- A BREAK frame arrives at the Host Port (R146). -/
def State.breakPort (s : State) (p : PortId) : State :=
  let t := s.dropOutstanding p
  if t.hub.online p then t.fencePort p .brk else t.takeOffline p

/-! ### A request frame arrives (R173 to R175) -/

/-- The port has a request outstanding: one in its slot, or a response not yet read (R174). -/
def Link.outstanding (l : Link) : Bool := l.slot.isSome || l.response.isSome

/-- The Host Port answers at once: a response without payload, under the tag received (R173). -/
def State.answerAtOnce (s : State) (p : PortId) (tag : Tag) (r : Result) : State :=
  s.updLink p (fun l => { l with response := some { tag := tag, reply := .bare r } })

/-- The lease timer of an ONLINE port restarts at the full period (R132). -/
def Hub.restartLease (h : Hub) (p : PortId) : Hub :=
  h.updPort p fun x =>
    match x.state, x.settings with
    | .online _, some t => { x with state := .online t.lease }
    | _, _ => x

/-- The tag of a header word. -/
def headerTag (w : Word) : Tag := bits w 20 4

/-- The payload length of a header word, 0 to 63. -/
def headerLength (w : Word) : Nat := (bits w 14 6).toNat

/-- A frame that has passed orders 1 and 2 of R173 and met no cached tag: an unknown code is answered, and recorded
in the replay cache; a known one fills the request slot. -/
def State.acceptFrame (s : State) (p : PortId) (header trailer : Word) (payload : List Word) : State :=
  match ReqKind.ofCode (bits header 24 8) with
  | none =>
    let x : Response := { tag := headerTag header, reply := .bare .unknownRequest }
    s.updLink p (fun l =>
      { l with response := some x, cache := some { header := header, trailer := trailer, response := x } })
  | some k =>
    s.updLink p (fun l => { l with slot := some { kind := k, tag := headerTag header, payload := payload } })

/-- A frame that has passed orders 1 and 2 of R173: the lease restarts, and the replay cache is consulted (R175). -/
def State.checkedFrame (s : State) (p : PortId) (header trailer : Word) (payload : List Word) : State :=
  let t := { s with hub := s.hub.restartLease p }
  match (s.link p).cache with
  | some k =>
    if k.response.tag = headerTag header then
      if k.header = header ∧ k.trailer = trailer then t.updLink p (fun l => { l with response := some k.response })
      else t.answerAtOnce p (headerTag header) .sequence
    else t.acceptFrame p header trailer payload
  | none => t.acceptFrame p header trailer payload

/-- A header word and the words after it in the window, while no request is outstanding: the link checks of R173. -/
def State.linkCheck (s : State) (p : PortId) (header : Word) (rest : List Word) : State :=
  let n := headerLength header
  match rest[n]? with
  | none => s.answerAtOnce p (headerTag header) .linkError
  | some trailer =>
    if trailer ≠ trailerOf header (rest.take n) then s.answerAtOnce p (headerTag header) .linkError
    else if bits header 0 14 ≠ 0#14 ∨ Config.payloadMax < n then s.answerAtOnce p (headerTag header) .malformed
    else s.checkedFrame p header trailer (rest.take n)

/-- A request frame arrives at a Host Port: it is discarded, and OVERRUN set, while a request is outstanding (R174);
else it is checked (R173). -/
def State.receive (s : State) (p : PortId) (header : Word) (rest : List Word) : State :=
  if (s.link p).outstanding then s.updLink p (fun l => { l with overrun := true })
  else s.linkCheck p header rest

/-- The words of a window from the first that is not IDLE onward (R172). -/
def skipIdle (hsi : List Word) : List Word := hsi.dropWhile (fun w => w == Config.idleWord)

/-- A window in which the host sends these words (R172): what the hub sends is decided at its start; then a header is
received as a request frame, a word of all ones as a BREAK, and a window without either completes a read. -/
def State.window (s : State) (p : PortId) (hsi : List Word) : State :=
  let t := s.sendWindow p hsi.length
  match skipIdle hsi with
  | [] => t.endWindow p hsi.length
  | w :: rest => if w = Config.breakWord then t.breakPort p else t.receive p w rest

/-- REQUEST_FRAME (R172 to R175). -/
def execRequestFrame (p : PortId) (hsi : List Word) (s : State) : Host.Outcome State Fault Refusal :=
  if s.isReady then .next (s.window p hsi) else .next (s.idleWindow p hsi.length)

/-- READ_WINDOW (R172): a window in which the host sends IDLE words alone. -/
def execReadWindow (p : PortId) (words : Nat) (s : State) : Host.Outcome State Fault Refusal :=
  if s.isReady then .next ((s.sendWindow p words).endWindow p words) else .next (s.idleWindow p words)

/-- BREAK (R146), in a window of one word. -/
def execBreak (p : PortId) (s : State) : Host.Outcome State Fault Refusal :=
  if s.isReady then .next ((s.sendWindow p 1).breakPort p) else .next (s.idleWindow p 1)

end Sys2Proof.Machine
end

