-- ==== Sys2Proof/Machine/Events.lean ====
section
/-!
DEFINITION. The hub's own events: hub reset and its end, the 1 ms tick, the expiries, aging promotions, and outside
faults.
-/
namespace Sys2Proof.Machine

/-- HUB_RESET (R147): every block as after reset; the commands that wait are the world's, and stay. -/
def execHubReset (s : State) : Host.Outcome State Fault Refusal :=
  .next { State.reset with pending := s.pending }

/-- HUB_READY (R148). -/
def execHubReady (s : State) : Host.Outcome State Fault Refusal := .next { s with readiness := .ready }

/-! ### Expiries -/

/-- The lease timer of the port has run out: the port is ONLINE with no lease remaining (R132). -/
def Port.leaseDue (x : Port) : Bool := x.state == .online 0

/-- The expiry of a lease: the port is fenced with reason LEASE (R132). Without a lease run out nothing happens. -/
def State.expireLease (s : State) (p : PortId) : State :=
  if (s.hub.port p).leaseDue then s.fencePort p .lease else s

/-- LEASE_EXPIRY (R132). -/
def execLeaseExpiry (p : PortId) (s : State) : Host.Outcome State Fault Refusal := .next (s.expireLease p)

/-- The wait timer of the port has run out (R91). -/
def Port.waitDue (x : Port) : Bool :=
  match x.claim with
  | .waiting _ n => n == 0
  | _ => false

/-- The expiry of a wait timer: the record leaves the Wait List and becomes EXPIRED (R91). -/
def State.expireWait (s : State) (p : PortId) : State :=
  if (s.hub.port p).waitDue then { s with hub := s.hub.endWait p .expired } else s

/-- WAIT_EXPIRY (R91). -/
def execWaitExpiry (p : PortId) (s : State) : Host.Outcome State Fault Refusal := .next (s.expireWait p)

/-- The lapse of a pending notice: the latch is CLEAR, the requester is sent PREEMPT_EXPIRED and the target
PREEMPT_WITHDRAWN (R113). -/
def Hub.lapse (h : Hub) (p : PortId) (n : Urgent) : Hub :=
  ((h.updPort p (fun x => { x with latch := .clear })).post n.requester (.preemptExpired p n.cls)).post p
    (.preemptWithdrawn n.requester n.cls)

/-- The expiry of a grace timer (R113). Without a grace timer run out nothing happens. -/
def State.expireGrace (s : State) (p : PortId) : State :=
  match (s.hub.port p).latch with
  | .pending n (some 0) => { s with hub := s.hub.lapse p n }
  | _ => s

/-- GRACE_EXPIRY (R113). -/
def execGraceExpiry (p : PortId) (s : State) : Host.Outcome State Fault Refusal := .next (s.expireGrace p)

/-- The promotion of the due frames of one band (R30, R31). -/
def State.promoteBand (s : State) (c : ClassId) (b : Prio) : State := { s with hub := s.hub.promote c b }

/-- AGING_PROMOTION (R30, R31). -/
def execAgingPromotion (c : ClassId) (band : Prio) (s : State) : Host.Outcome State Fault Refusal :=
  .next (s.promoteBand c band)

/-! ### The tick -/

/-- A queued frame has waited one more ms, up to 60000 (R29). -/
def Frame.tick (f : Frame) : Frame :=
  match f.ctx with
  | some c =>
    match c.place with
    | .queued e w => { f with ctx := some { c with place := .queued e (min (w + 1) Config.periodMax) } }
    | _ => f
  | none => f

/-- The remaining lease of an ONLINE port is 1 ms less (R132). -/
def PortState.tick : PortState → PortState
  | .online n => .online (n - 1)
  | x => x

/-- The remaining time of a waiting record is 1 ms less (R91). -/
def ClaimRec.tick : ClaimRec → ClaimRec
  | .waiting m n => .waiting m (n - 1)
  | x => x

/-- The remaining grace of a running grace timer is 1 ms less (R112). -/
def Latch.tick : Latch → Latch
  | .pending n g => .pending n (g.map (· - 1))
  | x => x

/-- The timers of a port, each 1 ms less. -/
def Port.tick (x : Port) : Port := { x with state := x.state.tick, claim := x.claim.tick, latch := x.latch.tick }

/-- One ms on every timer of the hub (R29, R91, R112, R132). -/
def Hub.tick (h : Hub) : Hub := { h with frames := h.frames.map Frame.tick, ports := h.ports.map Port.tick }

/-- The events that fell due at an earlier tick and that no command has taken: they are taken before the next tick
counts, promotions first, then wait, grace and lease expiries, each by rising number (notes/assumptions/3.md). -/
def State.takeDue (s : State) : State :=
  let s1 := allClasses.foldl (fun s c => ((s.promoteBand c 2).promoteBand c 1).promoteBand c 0) s
  let s2 := allPorts.foldl State.expireWait s1
  let s3 := allPorts.foldl State.expireGrace s2
  allPorts.foldl State.expireLease s3

/-- TIMEBASE_TICK. While the hub is not ready no timer runs, and by the third tick after the release of RESET_N the
hub is ready (R148). -/
def execTimebaseTick (s : State) : Host.Outcome State Fault Refusal :=
  match s.readiness with
  | .starting n =>
    .next { s with readiness := if n + 1 < Config.readyTicks then .starting (n + 1) else .ready }
  | .ready =>
    let t := s.takeDue
    .next { t with hub := t.hub.tick }

/-! ### Outside faults -/

/-- A stored word is altered: the damage mark of its block is set and the rewritten-word record emptied (R19). -/
def Hub.strike (h : Hub) (b : BlockId) (pos : Fin 8) (value : Word) : Hub :=
  { h.setBlock b { h.block b with damaged := true, rewritten := 0 } with
    memory := h.memory.write (8 * b.val + pos.val) value }

/-- FAULT (R19). A word that already reads `value` is not altered. -/
def execFault (b : BlockId) (pos : Fin 8) (value : Word) (s : State) : Host.Outcome State Fault Refusal :=
  if s.hub.memory.read (8 * b.val + pos.val) = value then .next s
  else .next { s with hub := s.hub.strike b pos value }

end Sys2Proof.Machine
end

