-- ==== Sys2Proof/Machine/Isolation.lean ====
section
/-!
DEFINITION. Isolation and repair (chapter 10): ISOLATION_LIST, INSPECT, ISOLATION_WRITE, REPAIR, DISCARD.
-/
namespace Sys2Proof.Machine

/-- ISOLATION_LIST (R162): the count, and the handles in list order two to a word. -/
def Hub.takeIsolationList (h : Hub) (p : PortId) (payload : List Word) : Hub × Reply :=
  h.session .isolationList p (h.form (readNothing payload) fun _ =>
    (h, .okWith (valueWord h.isolation.length :: pairWords (h.isolation.map h.handle))))

/-- ISOLATION_LIST. -/
def execIsolationList (p : PortId) (tag : Tag) (payload : List Word) (s : State) :
    Host.Outcome State Fault Refusal :=
  s.admission p { kind := .isolationList, tag := tag, payload := payload } (s.hub.takeIsolationList p payload)

/-- A frame that stays in the Isolation List takes a reason (R13, R20). -/
def Hub.setReason (h : Hub) (i : FrameId) (c : Context) (r : IsoReason) : Hub :=
  h.putCtx i { c with place := .isolated r }

/-- INSPECT by the conditions of R163, and as R164 gives when it is taken. -/
def Hub.inspectWith (h : Hub) (i : FrameId) (c : Context) (a : Nat × Nat) : Hub × Reply :=
  if a.2 = 0 then (h, .okWith (h.record i))
  else if Config.moveMax < a.2 ∨ c.len < a.1 + a.2 then (h, .bare .badValue)
  else if h.damagedIn c a.1 a.2 then
    let g := h.setReason i c .memoryError
    (g, .okWith (g.record i ++ [1#32]))
  else (h, .okWith (h.record i ++ [0#32] ++ h.readWords c a.1 a.2))

/-- INSPECT (R163, R164). -/
def Hub.takeInspect (h : Hub) (p : PortId) (payload : List Word) : Hub × Reply :=
  h.session .inspect p (h.handled Place.isIsolated payload readRange h.inspectWith)

/-- INSPECT. -/
def execInspect (p : PortId) (tag : Tag) (payload : List Word) (s : State) : Host.Outcome State Fault Refusal :=
  s.admission p { kind := .inspect, tag := tag, payload := payload } (s.hub.takeInspect p payload)

/-- ISOLATION_WRITE as R165 gives it. -/
def Hub.isolationWriteWith (h : Hub) (c : Context) (a : Nat × List Word) : Hub × Reply :=
  if c.len < a.1 + a.2.length then (h, .bare .badValue) else (h.storeWords c a.1 a.2, .bare .ok)

/-- ISOLATION_WRITE (R165). -/
def Hub.takeIsolationWrite (h : Hub) (p : PortId) (payload : List Word) : Hub × Reply :=
  h.session .isolationWrite p
    (h.handled Place.isIsolated payload readWrite (fun _ c a => h.isolationWriteWith c a))

/-- ISOLATION_WRITE. -/
def execIsolationWrite (p : PortId) (tag : Tag) (payload : List Word) (s : State) :
    Host.Outcome State Fault Refusal :=
  s.admission p { kind := .isolationWrite, tag := tag, payload := payload } (s.hub.takeIsolationWrite p payload)

/-- A frame leaves the Isolation List, those behind it moving up (R160). -/
def Hub.leaveIsolation (h : Hub) (i : FrameId) : Hub := { h with isolation := h.isolation.erase i }

/-- The result that reports an isolation reason (R167). -/
def IsoReason.result : IsoReason → Result
  | .checkMismatch => .checkMismatch
  | .memoryError => .memoryError

/-- REPAIR once its changes are made (R167, R168): the image is checked; the frame stays isolated for the reason found,
or leaves the list with cause REPAIRED. -/
def Hub.repairChecked (h : Hub) (i : FrameId) (c : Context) : Hub × Reply :=
  match h.checkImage c with
  | some r => (h.setReason i c r, { result := r.result, payload := [halfWord (h.handle i)] })
  | none =>
    let r := (h.leaveIsolation i).makeAvailable i c .repaired none
    (r.1, .okWith [outcomeWord (h.handle i) r.2])

/-- Two field changes name the same field. -/
def sameFieldTwice : List FieldChange → Bool
  | [] => false
  | f :: fs => fs.any (fun g => g.selector == f.selector) || sameFieldTwice fs

/-- REPAIR by the conditions of R166. -/
def Hub.repairWith (h : Hub) (i : FrameId) (c : Context) (a : RepairArgs) : Hub × Reply :=
  if a.changes.any FieldChange.readOnly then (h, .bare .readOnly)
  else if a.changes.any FieldChange.noField || sameFieldTwice a.changes then (h, .bare .badValue)
  else
    match (a.changes.foldl (fun r f => f.apply r) c.control.raw).check (h.cls c.control.cls).enabled with
    | none => (h, .bare .invalid)
    | some k => h.repairChecked i { c with control := k, check := a.check.getD c.check }

/-- REPAIR (R166 to R168). -/
def Hub.takeRepair (h : Hub) (p : PortId) (payload : List Word) : Hub × Reply :=
  h.session .repair p (h.handled Place.isIsolated payload readRepair h.repairWith)

/-- REPAIR. -/
def execRepair (p : PortId) (tag : Tag) (payload : List Word) (s : State) : Host.Outcome State Fault Refusal :=
  s.admission p { kind := .repair, tag := tag, payload := payload } (s.hub.takeRepair p payload)

/-- DISCARD (R169). -/
def Hub.takeDiscard (h : Hub) (p : PortId) (payload : List Word) : Hub × Reply :=
  h.session .discard p
    (h.handled Place.isIsolated payload readHandleOnly
      (fun i c _ => ((h.leaveIsolation i).freeFrame i c, .bare .ok)))

/-- DISCARD. -/
def execDiscard (p : PortId) (tag : Tag) (payload : List Word) (s : State) : Host.Outcome State Fault Refusal :=
  s.admission p { kind := .discard, tag := tag, payload := payload } (s.hub.takeDiscard p payload)

end Sys2Proof.Machine
end

