-- ==== Sys2Proof/Machine/Notices.lean ====
section
/-!
DEFINITION. Reading notices (chapter 9): NOTICE_READ.
-/
namespace Sys2Proof.Machine

/-- NOTICE_READ by the condition of R154, with the answer of R155. -/
def Hub.noticeReadWith (h : Hub) (p : PortId) (n : Nat) : Hub × Reply :=
  if n < 1 ∨ 4 < n then (h, .bare .badValue)
  else
    let q := (h.port p).notices
    (h.updPort p (fun x => { x with notices := q.drop n }),
     .okWith (valueWord (q.take n).length :: valueWord (q.drop n).length :: (q.take n).flatMap Notice.words))

/-- NOTICE_READ (R154, R155). -/
def Hub.takeNoticeRead (h : Hub) (p : PortId) (payload : List Word) : Hub × Reply :=
  h.session .noticeRead p (h.form (readThree payload) fun n => h.noticeReadWith p n.toNat)

/-- NOTICE_READ. -/
def execNoticeRead (p : PortId) (tag : Tag) (payload : List Word) (s : State) : Host.Outcome State Fault Refusal :=
  s.admission p { kind := .noticeRead, tag := tag, payload := payload } (s.hub.takeNoticeRead p payload)

end Sys2Proof.Machine
end

