-- ==== Sys2Proof/Machine/Stack.lean ====
section
/-!
DEFINITION. Suspension stacks (chapter 6): SUSPEND, RESUME_TOP.
-/
namespace Sys2Proof.Machine

/-- A frame becomes STACKED with the port as owner, its modified mark discarded (R99, R116). -/
def Hub.stackFrame (h : Hub) (p : PortId) (i : FrameId) : Hub :=
  match h.ctx i with
  | some c => h.putCtx i { c with place := .stacked p }
  | none => h

/-- A held frame leaves the hold set and is pushed onto the top of the stack, tagged VOLUNTARY (R99). -/
def Hub.pushVoluntary (h : Hub) (p : PortId) (i : FrameId) : Hub :=
  ((h.leaveHold p i).stackFrame p i).updPort p
    (fun x => { x with stack := { frame := i, tag := .voluntary } :: x.stack })

/-- SUSPEND by the condition of R98, and as R99 gives when it is taken. -/
def Hub.suspendWith (h : Hub) (p : PortId) (i : FrameId) : Hub × Reply :=
  if Config.stackMax ≤ (h.port p).stack.length then (h, .bare .stackFull)
  else
    let g := h.pushVoluntary p i
    (g, .okWith [valueWord (g.port p).stack.length])

/-- SUSPEND (R98, R99). -/
def Hub.takeSuspend (h : Hub) (p : PortId) (payload : List Word) : Hub × Reply :=
  h.session .suspend p
    (h.handled (Place.isHeldOf p) payload readHandleOnly (fun i _ _ => h.suspendWith p i))

/-- SUSPEND. -/
def execSuspend (p : PortId) (tag : Tag) (payload : List Word) (s : State) : Host.Outcome State Fault Refusal :=
  s.admission p { kind := .suspend, tag := tag, payload := payload } (s.hub.takeSuspend p payload)

/-- A frame comes from the stack of a port into its hold set (R60, R101, R121). -/
def Hub.resumeFrame (h : Hub) (p : PortId) (i : FrameId) : Hub :=
  match h.ctx i with
  | some c => h.enterHold i c p
  | none => h

/-- RESUME_TOP by the conditions of R100, and as R101 gives when it is taken. -/
def Hub.resumeTopNow (h : Hub) (p : PortId) : Hub × Reply :=
  match (h.port p).stack with
  | [] => (h, .bare .stackEmpty)
  | e :: rest =>
    if e.tag = .preempt then (h, .bare .preemptLevel)
    else if Config.holdMax ≤ (h.port p).holdCount then (h, .bare .holdFull)
    else
      let g := (h.updPort p (fun x => { x with stack := rest })).resumeFrame p e.frame
      (g, .okWith (g.record e.frame))

/-- RESUME_TOP (R100, R101). -/
def Hub.takeResumeTop (h : Hub) (p : PortId) (payload : List Word) : Hub × Reply :=
  h.session .resumeTop p (h.form (readNothing payload) fun _ => h.resumeTopNow p)

/-- RESUME_TOP. -/
def execResumeTop (p : PortId) (tag : Tag) (payload : List Word) (s : State) : Host.Outcome State Fault Refusal :=
  s.admission p { kind := .resumeTop, tag := tag, payload := payload } (s.hub.takeResumeTop p payload)

end Sys2Proof.Machine
end

