-- ==== Sys2Proof/Machine/Preempt.lean ====
section
/-!
DEFINITION. Preemption (chapter 7): PREEMPT, TAKE_PREEMPT, END_PREEMPT.
-/
namespace Sys2Proof.Machine

/-- The latch of a port takes a new state. -/
def Hub.setLatch (h : Hub) (p : PortId) (l : Latch) : Hub := h.updPort p (fun x => { x with latch := l })

/-- PREEMPT answered by the state of the target's latch (R110). -/
def Hub.postUrgent (h : Hub) (t : PortId) (n : Urgent) : Hub × Reply :=
  match (h.port t).latch with
  | .clear => (h.setLatch t (.pending n (h.port t).graceStart), .bare .posted)
  | .pending _ _ => (h, .bare .alreadyPending)
  | .serving v => (h.setLatch t (.servingPending v n), .bare .latched)
  | .servingPending _ _ => (h, .bare .latchFull)

/-- PREEMPT by the conditions of R109. -/
def Hub.preemptWith (h : Hub) (p : PortId) (a : PortId × ClassId) : Hub × Reply :=
  if a.1 = p then (h, .bare .self)
  else if h.online a.1 = false then (h, .bare .targetOffline)
  else if (h.cls a.2).enabled = false then (h, .bare .classDisabled)
  else h.postUrgent a.1 { requester := p, cls := a.2 }

/-- PREEMPT (R109, R110). -/
def Hub.takePreemptRequest (h : Hub) (p : PortId) (payload : List Word) : Hub × Reply :=
  h.session .preempt p (h.form (readPreempt payload) (h.preemptWith p))

/-- PREEMPT. -/
def execPreempt (p : PortId) (tag : Tag) (payload : List Word) (s : State) : Host.Outcome State Fault Refusal :=
  s.admission p { kind := .preempt, tag := tag, payload := payload } (s.hub.takePreemptRequest p payload)

/-- The entries a save pushes, top first: the oldest member of the hold set lowest (R116). -/
def savedEntries (hold : List FrameId) : List StackEntry :=
  (hold.map (fun i => { frame := i, tag := StackTag.preempt })).reverse

/-- The save of R116: each member of the hold set, oldest first, is pushed onto the stack with tag PREEMPT, and the
hold set is empty. -/
def Hub.saveHold (h : Hub) (p : PortId) : Hub :=
  ((h.port p).hold.foldl (fun g i => g.stackFrame p i) h).updPort p
    (fun x => { x with hold := [], stack := savedEntries x.hold ++ x.stack })

/-- The taking of R116 and R117, up to the claim: the save, the latch SERVING, and PREEMPT_TAKEN to the requester. -/
def Hub.beginService (h : Hub) (p : PortId) (n : Urgent) : Hub :=
  ((h.saveHold p).setLatch p (.serving n)).post n.requester (.preemptTaken p n.cls)

/-- The class mask of one class. -/
def classMask (c : ClassId) : ClassSet := 1#8 <<< c.val

/-- TAKE_PREEMPT by the conditions of R115, and as R116 to R118 give when it is taken. -/
def Hub.takePreemptNow (h : Hub) (p : PortId) : Hub × Reply :=
  match (h.port p).latch with
  | .pending n _ =>
    if Config.stackMax < (h.port p).stack.length + (h.port p).hold.length then (h, .bare .stackFull)
    else
      let g := h.beginService p n
      let saved := valueWord (h.port p).hold.length
      match g.claimBest p (classMask n.cls) with
      | some (k, ws) => (k, .okWith (noticeWord n :: saved :: ws))
      | none => (g, .okWith [noticeWord n, saved, 0#32])
  | _ => (h, .bare .notPending)

/-- TAKE_PREEMPT (R115 to R118). -/
def Hub.takeTakePreempt (h : Hub) (p : PortId) (payload : List Word) : Hub × Reply :=
  h.session .takePreempt p (h.form (readNothing payload) fun _ => h.takePreemptNow p)

/-- TAKE_PREEMPT. -/
def execTakePreempt (p : PortId) (tag : Tag) (payload : List Word) (s : State) : Host.Outcome State Fault Refusal :=
  s.admission p { kind := .takePreempt, tag := tag, payload := payload } (s.hub.takeTakePreempt p payload)

/-- The preempt group of a stack, in original hold-set order, oldest first (R97, R121). -/
def Port.group (x : Port) : List FrameId := ((x.stack.filter (fun e => e.tag == .preempt)).map (·.frame)).reverse

/-- A VOLUNTARY entry lies above the topmost PREEMPT entry (R120). -/
def Port.nested (x : Port) : Bool :=
  match x.stack with
  | [] => false
  | e :: _ => e.tag == .voluntary && x.stack.any (fun e => e.tag == .preempt)

/-- A saved frame whose affinity includes the port: END_PREEMPT restores it (R121). -/
def Hub.restorable (h : Hub) (p : PortId) (i : FrameId) : Bool :=
  match h.ctx i with
  | some c => c.allows p
  | none => false

/-- What END_PREEMPT has done with the frames of the group so far. -/
structure EndTally where
  hub      : Hub
  restored : List FrameId
  diverted : List (FrameId × FrameOutcome)
  deriving DecidableEq, Repr

/-- One frame of the group, restored or diverted (R121). -/
def EndTally.deal (t : EndTally) (p : PortId) (i : FrameId) : EndTally :=
  match t.hub.ctx i with
  | none => t
  | some c =>
    if c.allows p then
      { t with hub := t.hub.enterHold i c p, restored := t.restored ++ [i] }
    else
      let r := t.hub.makeAvailable i c .returned none
      { t with hub := r.1, diverted := t.diverted ++ [(i, r.2)] }

/-- The latch after a service: CLEAR, or PENDING with the latched notice and a grace timer of its own (R122). -/
def Port.latchAfter (x : Port) : Latch :=
  match x.latch with
  | .servingPending _ n => .pending n x.graceStart
  | _ => .clear

/-- The end of the service (R121, R122): the group leaves the stack, its frames are dealt with oldest first, the
requester is told, and the latch changes. -/
def Hub.endService (h : Hub) (p : PortId) (v : Urgent) : EndTally :=
  let x := h.port p
  let h1 := h.updPort p (fun x => { x with stack := x.stack.filter (fun e => e.tag != .preempt) })
  let t : EndTally := x.group.foldl (fun t i => EndTally.deal t p i) { hub := h1, restored := [], diverted := [] }
  { t with hub := (t.hub.post v.requester (.preemptDone p v.cls)).setLatch p x.latchAfter }

/-- The answer to END_PREEMPT: notice word, list counts, restored handles, diverted outcome words, latch (R123,
R181). -/
def EndTally.payload (t : EndTally) (h : Hub) (v : Urgent) (l : Latch) : List Word :=
  noticeWord v ::
    (0#25 ++ BitVec.ofNat 3 t.diverted.length ++ 0#1 ++ BitVec.ofNat 3 t.restored.length) ::
    (t.restored.map (fun i => halfWord (h.handle i)) ++
      t.diverted.map (fun d => outcomeWord (h.handle d.1) d.2) ++
      [if l.isPending then 1#32 else 0#32])

/-- END_PREEMPT by the conditions of R120 after the first, and as R121 to R123 give when it is taken. -/
def Hub.endPreemptWith (h : Hub) (p : PortId) (v : Urgent) : Hub × Reply :=
  let x := h.port p
  if x.hold ≠ [] then (h, .bare .holding)
  else if x.nested then (h, .bare .nested)
  else if x.claim.isWaiting && decide (Config.holdMax ≤ x.group.length) && x.group.all (h.restorable p) then
    (h, .bare .holdFull)
  else
    let t := h.endService p v
    (t.hub, .okWith (t.payload h v x.latchAfter))

/-- END_PREEMPT by the state of the latch (R120). -/
def Hub.endPreemptNow (h : Hub) (p : PortId) : Hub × Reply :=
  match (h.port p).latch with
  | .serving v => h.endPreemptWith p v
  | .servingPending v _ => h.endPreemptWith p v
  | _ => (h, .bare .notServing)

/-- END_PREEMPT (R120 to R123). -/
def Hub.takeEndPreempt (h : Hub) (p : PortId) (payload : List Word) : Hub × Reply :=
  h.session .endPreempt p (h.form (readNothing payload) fun _ => h.endPreemptNow p)

/-- END_PREEMPT. -/
def execEndPreempt (p : PortId) (tag : Tag) (payload : List Word) (s : State) : Host.Outcome State Fault Refusal :=
  s.admission p { kind := .endPreempt, tag := tag, payload := payload } (s.hub.takeEndPreempt p payload)

end Sys2Proof.Machine
end

