-- ==== Sys2Proof/Machine/Session.lean ====
section
/-!
DEFINITION. Sessions (chapter 8): JOIN, LEAVE, RENEW, STATUS, HUB_INFO, SUBSCRIBE. Each request is a function of the
hub, its port and its payload (`take…`), and its command the admission of it (`exec…`).
-/
namespace Sys2Proof.Machine

/-- The session begins (R130): ONLINE under the next epoch, with the settings carried and the lease timer started. -/
def Hub.beginSession (h : Hub) (p : PortId) (t : Settings) : Hub :=
  h.updPort p (fun x => { x with state := .online t.lease, epoch := x.epoch + 1, settings := some t })

/-- JOIN by its own conditions (R129, R130). -/
def Hub.joinWith (h : Hub) (p : PortId) (t : Settings) : Hub × Reply :=
  if h.online p then (h, .bare .alreadyJoined)
  else if inPeriod t.lease && zeroOrPeriod t.grace then
    let g := h.beginSession p t
    (g, .okWith (halfWord (g.port p).epoch :: g.capability))
  else (h, .bare .badValue)

/-- JOIN (R128 to R130). -/
def Hub.takeJoin (h : Hub) (p : PortId) (payload : List Word) : Hub × Reply :=
  h.session .join p (h.form (readJoin payload) (h.joinWith p))

/-- JOIN. -/
def execJoin (p : PortId) (tag : Tag) (payload : List Word) (s : State) : Host.Outcome State Fault Refusal :=
  s.admission p { kind := .join, tag := tag, payload := payload } (s.hub.takeJoin p payload)

/-- Nothing keeps the port from leaving (R134). -/
def Port.mayLeave (x : Port) : Bool :=
  x.hold.isEmpty && x.stack.isEmpty && x.filling.isEmpty && x.claim == .none && !x.latch.isServing

/-- The notice of a PENDING latch is cancelled, and the latch is CLEAR (R126, R135). -/
def Hub.cancelPending (h : Hub) (p : PortId) : Hub :=
  match (h.port p).latch with
  | .pending n _ => (h.post n.requester (.preemptCancelled p n.cls)).updPort p (fun x => { x with latch := .clear })
  | _ => h

/-- The session ends in order (R135), less the replay cache, which the Host Port empties. -/
def Hub.endSession (h : Hub) (p : PortId) : Hub :=
  (h.cancelPending p).updPort p (fun x => { x with state := .offline, notices := [] })

/-- LEAVE (R134, R135). -/
def Hub.takeLeave (h : Hub) (p : PortId) (payload : List Word) : Hub × Reply :=
  h.session .leave p (h.form (readNothing payload) fun _ =>
    if (h.port p).mayLeave then (h.endSession p, .bare .ok) else (h, .bare .busyHolding))

/-- LEAVE. -/
def execLeave (p : PortId) (tag : Tag) (payload : List Word) (s : State) : Host.Outcome State Fault Refusal :=
  s.admission p { kind := .leave, tag := tag, payload := payload } (s.hub.takeLeave p payload)

/-- RENEW (R133): the lease was restarted when its frame passed the link checks; the request answers the epoch. -/
def Hub.takeRenew (h : Hub) (p : PortId) (payload : List Word) : Hub × Reply :=
  h.session .renew p (h.form (readNothing payload) fun _ => (h, .okWith [halfWord (h.port p).epoch]))

/-- RENEW. -/
def execRenew (p : PortId) (tag : Tag) (payload : List Word) (s : State) : Host.Outcome State Fault Refusal :=
  s.admission p { kind := .renew, tag := tag, payload := payload } (s.hub.takeRenew p payload)

/-- STATUS (R136, R183). -/
def Hub.takeStatus (h : Hub) (p : PortId) (payload : List Word) : Hub × Reply :=
  h.session .status p (h.form (readNothing payload) fun _ => (h, .okWith (h.statusWords p)))

/-- STATUS. -/
def execStatus (p : PortId) (tag : Tag) (payload : List Word) (s : State) : Host.Outcome State Fault Refusal :=
  s.admission p { kind := .status, tag := tag, payload := payload } (s.hub.takeStatus p payload)

/-- HUB_INFO (R137). -/
def Hub.takeHubInfo (h : Hub) (p : PortId) (payload : List Word) : Hub × Reply :=
  h.session .hubInfo p (h.form (readNothing payload) fun _ => (h, .okWith h.capability))

/-- HUB_INFO. -/
def execHubInfo (p : PortId) (tag : Tag) (payload : List Word) (s : State) : Host.Outcome State Fault Refusal :=
  s.admission p { kind := .hubInfo, tag := tag, payload := payload } (s.hub.takeHubInfo p payload)

/-- The subscription mask is replaced (R138). -/
def Hub.setSubscription (h : Hub) (p : PortId) (m : ClassSet) : Hub :=
  h.updPort p (fun x => { x with settings := x.settings.map (fun t => { t with mask := m }) })

/-- SUBSCRIBE (R138). -/
def Hub.takeSubscribe (h : Hub) (p : PortId) (payload : List Word) : Hub × Reply :=
  h.session .subscribe p (h.form (readMask payload) fun m => (h.setSubscription p m, .bare .ok))

/-- SUBSCRIBE. -/
def execSubscribe (p : PortId) (tag : Tag) (payload : List Word) (s : State) : Host.Outcome State Fault Refusal :=
  s.admission p { kind := .subscribe, tag := tag, payload := payload } (s.hub.takeSubscribe p payload)

end Sys2Proof.Machine
end

