-- ==== Sys2Proof/Machine/Wait.lean ====
section
/-!
DEFINITION. Waiting claims (chapter 5): CLAIM_WAIT, CLAIM_RESULT, CLAIM_CANCEL.
-/
namespace Sys2Proof.Machine

/-- A waiting claim is placed: the record becomes WAITING with its timer started, and joins the tail of the Wait
List (R86). -/
def Hub.beginWait (h : Hub) (p : PortId) (m : ClassSet) (timeout : Nat) : Hub :=
  { h.updPort p (fun x => { x with claim := .waiting m timeout }) with waitList := h.waitList ++ [p] }

/-- CLAIM_WAIT by the conditions of R84, and as R85 and R86 give when it is taken. -/
def Hub.claimWaitWith (h : Hub) (p : PortId) (a : ClassSet × Nat) : Hub × Reply :=
  if a.1 = 0#8 ∨ waitPeriod a.2 = false then (h, .bare .badValue)
  else if Config.holdMax ≤ (h.port p).holdCount then (h, .bare .holdFull)
  else if (h.port p).claim ≠ .none then (h, .bare .waitExists)
  else
    match h.claimBest p a.1 with
    | some (g, ws) => (g, { result := .granted, payload := ws })
    | none => (h.beginWait p a.1 a.2, .bare .waiting)

/-- CLAIM_WAIT (R84 to R86). -/
def Hub.takeClaimWait (h : Hub) (p : PortId) (payload : List Word) : Hub × Reply :=
  h.session .claimWait p (h.form (readMaskTimeout payload) (h.claimWaitWith p))

/-- CLAIM_WAIT. -/
def execClaimWait (p : PortId) (tag : Tag) (payload : List Word) (s : State) : Host.Outcome State Fault Refusal :=
  s.admission p { kind := .claimWait, tag := tag, payload := payload } (s.hub.takeClaimWait p payload)

/-- The claim record of a port takes a new state, without touching the Wait List. -/
def Hub.setClaim (h : Hub) (p : PortId) (r : ClaimRec) : Hub := h.updPort p (fun x => { x with claim := r })

/-- CLAIM_RESULT by the state of the record (R93). A wait timer that stands at 0 has run out (R91): its expiry is
taken before the request, which then reads the EXPIRED result (notes/assumptions/3.md). -/
def Hub.claimResultNow (h : Hub) (p : PortId) : Hub × Reply :=
  match (h.port p).claim with
  | .none => (h, .bare .none)
  | .waiting _ n =>
    if n = 0 then ((h.endWait p .expired).setClaim p .none, .bare .expired)
    else (h, { result := .waiting, payload := [valueWord n] })
  | .granted hd => (h.setClaim p .none, { result := .granted, payload := [halfWord hd] })
  | .expired => (h.setClaim p .none, .bare .expired)

/-- CLAIM_RESULT (R93). -/
def Hub.takeClaimResult (h : Hub) (p : PortId) (payload : List Word) : Hub × Reply :=
  h.session .claimResult p (h.form (readNothing payload) fun _ => h.claimResultNow p)

/-- CLAIM_RESULT. -/
def execClaimResult (p : PortId) (tag : Tag) (payload : List Word) (s : State) : Host.Outcome State Fault Refusal :=
  s.admission p { kind := .claimResult, tag := tag, payload := payload } (s.hub.takeClaimResult p payload)

/-- CLAIM_CANCEL by the state of the record (R94). -/
def Hub.claimCancelNow (h : Hub) (p : PortId) : Hub × Reply :=
  match (h.port p).claim with
  | .waiting _ _ => (h.endWait p .none, .bare .cancelled)
  | .granted hd => (h.setClaim p .none, { result := .granted, payload := [halfWord hd] })
  | .expired => (h.setClaim p .none, .bare .expired)
  | .none => (h, .bare .none)

/-- CLAIM_CANCEL (R94). -/
def Hub.takeClaimCancel (h : Hub) (p : PortId) (payload : List Word) : Hub × Reply :=
  h.session .claimCancel p (h.form (readNothing payload) fun _ => h.claimCancelNow p)

/-- CLAIM_CANCEL. -/
def execClaimCancel (p : PortId) (tag : Tag) (payload : List Word) (s : State) : Host.Outcome State Fault Refusal :=
  s.admission p { kind := .claimCancel, tag := tag, payload := payload } (s.hub.takeClaimCancel p payload)

end Sys2Proof.Machine
end

