-- ==== Sys2Proof/Machine/Dispatch.lean ====
section
/-! DEFINITION. The meaning of each command: one arm per row of the table. -/
namespace Sys2Proof.Machine

def exec (i : Instr) (s : State) : Host.Outcome State Fault Refusal :=
  match i with
  | .join p tag ws => Sys2Proof.Machine.execJoin p tag ws s
  | .leave p tag ws => Sys2Proof.Machine.execLeave p tag ws s
  | .renew p tag ws => Sys2Proof.Machine.execRenew p tag ws s
  | .status p tag ws => Sys2Proof.Machine.execStatus p tag ws s
  | .hubInfo p tag ws => Sys2Proof.Machine.execHubInfo p tag ws s
  | .subscribe p tag ws => Sys2Proof.Machine.execSubscribe p tag ws s
  | .parkOpen p tag ws => Sys2Proof.Machine.execParkOpen p tag ws s
  | .parkWrite p tag ws => Sys2Proof.Machine.execParkWrite p tag ws s
  | .parkClose p tag ws => Sys2Proof.Machine.execParkClose p tag ws s
  | .parkAbort p tag ws => Sys2Proof.Machine.execParkAbort p tag ws s
  | .claim p tag ws => Sys2Proof.Machine.execClaim p tag ws s
  | .readImage p tag ws => Sys2Proof.Machine.execReadImage p tag ws s
  | .writeImage p tag ws => Sys2Proof.Machine.execWriteImage p tag ws s
  | .edit p tag ws => Sys2Proof.Machine.execEdit p tag ws s
  | .returnFrame p tag ws => Sys2Proof.Machine.execReturn p tag ws s
  | .repark p tag ws => Sys2Proof.Machine.execRepark p tag ws s
  | .retire p tag ws => Sys2Proof.Machine.execRetire p tag ws s
  | .claimWait p tag ws => Sys2Proof.Machine.execClaimWait p tag ws s
  | .claimResult p tag ws => Sys2Proof.Machine.execClaimResult p tag ws s
  | .claimCancel p tag ws => Sys2Proof.Machine.execClaimCancel p tag ws s
  | .suspend p tag ws => Sys2Proof.Machine.execSuspend p tag ws s
  | .resumeTop p tag ws => Sys2Proof.Machine.execResumeTop p tag ws s
  | .preempt p tag ws => Sys2Proof.Machine.execPreempt p tag ws s
  | .takePreempt p tag ws => Sys2Proof.Machine.execTakePreempt p tag ws s
  | .endPreempt p tag ws => Sys2Proof.Machine.execEndPreempt p tag ws s
  | .isolationList p tag ws => Sys2Proof.Machine.execIsolationList p tag ws s
  | .inspect p tag ws => Sys2Proof.Machine.execInspect p tag ws s
  | .isolationWrite p tag ws => Sys2Proof.Machine.execIsolationWrite p tag ws s
  | .repair p tag ws => Sys2Proof.Machine.execRepair p tag ws s
  | .discard p tag ws => Sys2Proof.Machine.execDiscard p tag ws s
  | .noticeRead p tag ws => Sys2Proof.Machine.execNoticeRead p tag ws s
  | .classSet p tag ws => Sys2Proof.Machine.execClassSet p tag ws s
  | .classGet p tag ws => Sys2Proof.Machine.execClassGet p tag ws s
  | .requestFrame p hsi => Sys2Proof.Machine.execRequestFrame p hsi s
  | .readWindow p n => Sys2Proof.Machine.execReadWindow p n s
  | .breakFrame p => Sys2Proof.Machine.execBreak p s
  | .hubReset => Sys2Proof.Machine.execHubReset s
  | .hubReady => Sys2Proof.Machine.execHubReady s
  | .timebaseTick => Sys2Proof.Machine.execTimebaseTick s
  | .leaseExpiry p => Sys2Proof.Machine.execLeaseExpiry p s
  | .waitExpiry p => Sys2Proof.Machine.execWaitExpiry p s
  | .graceExpiry p => Sys2Proof.Machine.execGraceExpiry p s
  | .agingPromotion c band => Sys2Proof.Machine.execAgingPromotion c band s
  | .fault b pos value => Sys2Proof.Machine.execFault b pos value s

end Sys2Proof.Machine
end

