-- ==== Sys2Proof/Safety.lean ====
section
/-!
DEFINITION. The terms the statements about the hub use: the laws the spec says hold between events, and the words in
which a statement says what a command changes and what it leaves.
-/
namespace Sys2Proof.Machine

/-! ### Ranges (R1, R5, R8, R11, R12, R13, R22, R127) -/

/-- Every generation lies in 1 to 1023 (R5). -/
def Hub.GenerationsLegal (h : Hub) : Prop := ∀ i, (h.frame i).gen ≠ 0#10

/-- A resume mode the wait marker and the trapped access allow (R11). -/
def Control.ResumeLegal (c : Control) : Prop :=
  (c.resume = .wait → c.waitMarker = true) ∧ (c.resume = .retry → c.trap.isSome = true)

/-- The waited time of a QUEUED frame; 0 in every other state, where it is absent. -/
def Place.waited : Place → Nat
  | .queued _ w => w
  | _ => 0

/-- The fields of a frame in use lie in their ranges (R1, R8, R11, R12, R13). -/
def Context.FieldsLegal (c : Context) : Prop :=
  c.control.affinity ≠ 0#4 ∧ c.control.ResumeLegal ∧ 1 ≤ c.len ∧ c.len ≤ Config.imageMax ∧ c.place.fill ≤ c.len ∧
    c.place.waited ≤ Config.periodMax

/-- Every frame in use has its fields in their ranges. -/
def Hub.FieldsLegal (h : Hub) : Prop := ∀ i, ∀ c ∈ h.ctx i, c.FieldsLegal

/-- Every class record has its limit in 1 to 64 and its aging interval 0 or in 10 to 60000 (R22). -/
def Hub.ClassesLegal (h : Hub) : Prop :=
  ∀ k, 1 ≤ (h.cls k).limit ∧ (h.cls k).limit ≤ 64 ∧ zeroOrPeriod (h.cls k).aging = true

/-- The remaining lease of an ONLINE port. -/
def PortState.remaining : PortState → Option Nat
  | .online n => some n
  | _ => none

/-- The session settings lie in their ranges; an ONLINE port has some, and its lease stands within its period (R127,
R132). -/
def Port.SessionLegal (x : Port) : Prop :=
  (∀ t ∈ x.settings, inPeriod t.lease = true ∧ zeroOrPeriod t.grace = true) ∧
    ∀ n ∈ x.state.remaining, ∃ t ∈ x.settings, n ≤ t.lease

/-- Every session is legal. -/
def Hub.SessionsLegal (h : Hub) : Prop := ∀ p, (h.port p).SessionLegal

/-- A waiting claim names a class, and its timer stands within the longest timeout (R82, R84, R91). -/
def ClaimRec.inRange : ClaimRec → Bool
  | .waiting m n => m != 0#8 && decide (n ≤ Config.periodMax)
  | _ => true

/-- A grace timer that runs stands within the longest grace period (R112). -/
def Latch.inRange : Latch → Bool
  | .pending _ (some g) => decide (g ≤ Config.periodMax)
  | _ => true

/-- Every claim record and every latch is in its range. -/
def Hub.RecordsLegal (h : Hub) : Prop := ∀ p, (h.port p).claim.inRange = true ∧ (h.port p).latch.inRange = true

/-! ### Frames and their collections (R2, R39, R58, R96, R160) -/

/-- QUEUED. -/
def Place.isQueued : Place → Bool
  | .queued _ _ => true
  | _ => false

/-- STACKED, owned by the port. -/
def Place.isStackedOf (p : PortId) : Place → Bool
  | .stacked o => o == p
  | _ => false

/-- The frame is in use, in a place that meets the test. -/
def Hub.placed (h : Hub) (test : Place → Bool) (i : FrameId) : Bool := (h.ctx i).any (fun c => test c.place)

/-- The frame is QUEUED and of this class. -/
def Hub.queuedIn (h : Hub) (k : ClassId) (i : FrameId) : Bool :=
  (h.ctx i).any (fun c => c.place.isQueued && c.control.cls == k)

/-- Every frame is recorded in the collection of its state and in no other, and once there (R2, R39). -/
structure Hub.Filed (h : Hub) : Prop where
  queueNodup     : ∀ k, (h.cls k).queue.Nodup
  holdNodup      : ∀ p, (h.port p).hold.Nodup
  fillingNodup   : ∀ p, (h.port p).filling.Nodup
  stackNodup     : ∀ p, ((h.port p).stack.map StackEntry.frame).Nodup
  isolationNodup : h.isolation.Nodup
  queue     : ∀ k i, i ∈ (h.cls k).queue ↔ h.queuedIn k i = true
  hold      : ∀ p i, i ∈ (h.port p).hold ↔ h.placed (Place.isHeldOf p) i = true
  filling   : ∀ p i, i ∈ (h.port p).filling ↔ h.placed (Place.isFillingOf p) i = true
  stack     : ∀ p i, i ∈ (h.port p).stack.map StackEntry.frame ↔ h.placed (Place.isStackedOf p) i = true
  isolation : ∀ i, i ∈ h.isolation ↔ h.placed Place.isIsolated i = true

/-! ### Blocks and populations (R17, R22, R23) -/

/-- The blocks a frame lists; a FREE one lists none. -/
def Hub.blocksOf (h : Hub) (i : FrameId) : List BlockId :=
  match h.ctx i with
  | some c => c.blocks
  | none => []

/-- A frame in use lists the blocks its image needs, each once (R16, R17). -/
def Context.BlocksLegal (c : Context) : Prop := c.blocks.Nodup ∧ c.blocks.length = blocksFor c.len

/-- Each block is either free or listed by exactly one frame, and each frame lists as many blocks as its image needs
(R17). -/
structure Hub.BlocksConserved (h : Hub) : Prop where
  listed : ∀ b, (h.block b).free = false ↔ ∃ i, b ∈ h.blocksOf i
  apart  : ∀ i j b, b ∈ h.blocksOf i → b ∈ h.blocksOf j → i = j
  legal  : ∀ i, ∀ c ∈ h.ctx i, c.BlocksLegal

/-- The frames of a class that are not FREE. -/
def Hub.membersOf (h : Hub) (k : ClassId) : List FrameId :=
  (List.finRange 64).filter (fun i => (h.ctx i).any (fun c => c.control.cls == k))

/-- Each population counts the frames of its class that are not FREE, is within the limit, and is 0 in a disabled
class (R22, R23). -/
def Hub.PopulationsTrue (h : Hub) : Prop :=
  ∀ k, (h.cls k).population = (h.membersOf k).length ∧ (h.cls k).population ≤ (h.cls k).limit ∧
    ((h.cls k).enabled = false → (h.cls k).population = 0)

/-! ### Queues and the Wait List (R24, R83) -/

/-- Every queue stands in bands: by non-increasing effective priority from its head (R24). -/
def Hub.QueuesBanded (h : Hub) : Prop :=
  ∀ k, (h.cls k).queue.Pairwise (fun i j => h.effOf j ≤ h.effOf i)

/-- The Wait List names each port with a WAITING record once, and no other port (R83). -/
def Hub.WaitListTrue (h : Hub) : Prop :=
  h.waitList.Nodup ∧ ∀ p, p ∈ h.waitList ↔ (h.port p).claim.isWaiting = true

/-- A waiting claim stands beside no queued frame it could claim (R83). -/
def Hub.NoMissedFrame (h : Hub) : Prop :=
  ∀ p i, ∀ c ∈ h.ctx i, c.place.isQueued = true → h.claimTakes c none p = false

/-! ### Ports (R39, R59, R96, R97, R127, R149) -/

/-- The lists of a port are within their bounds (R39, R59, R96, R149). -/
def Port.Bounded (x : Port) : Prop :=
  x.holdCount ≤ Config.holdMax ∧ x.stack.length ≤ Config.stackMax ∧ x.filling.length ≤ Config.fillMax ∧
    x.notices.length ≤ Config.noticeMax

/-- PREEMPT entries stand on the stack only while the latch serves, and at most 4 of them (R97). -/
def Port.GroupLegal (x : Port) : Prop :=
  (x.latch.isServing = false → x.group = []) ∧ x.group.length ≤ Config.holdMax

/-- A stack reads, from its top, a run of VOLUNTARY entries, a run of PREEMPT entries, and a run of VOLUNTARY entries
(R97). -/
def Port.StackInRuns (x : Port) : Prop :=
  ((x.stack.dropWhile (fun e => e.tag == .voluntary)).dropWhile (fun e => e.tag == .preempt)).all
    (fun e => e.tag == .voluntary) = true

/-- Every port is within its bounds, its stack has the three parts of R97, and no port is the requester of a notice in
its own latch (R109). -/
def Hub.PortsBounded (h : Hub) : Prop :=
  ∀ p, (h.port p).Bounded ∧ (h.port p).GroupLegal ∧ (h.port p).StackInRuns ∧
    ∀ n ∈ (h.port p).latch.notices, n.requester ≠ p

/-- A port that is not ONLINE holds, stacks, fills and waits for nothing, and its latch is CLEAR; one that is OFFLINE
has no notices (R127, R149). -/
def Port.QuietOffline (x : Port) : Prop :=
  x.state.isOnline = false →
    x.hold = [] ∧ x.stack = [] ∧ x.filling = [] ∧ x.claim = .none ∧ x.latch = .clear ∧
      (x.state = .offline → x.notices = [])

/-- Every port that is not ONLINE is quiet. -/
def Hub.OfflineQuiet (h : Hub) : Prop := ∀ p, (h.port p).QuietOffline

/-! ### Host Ports (R173, R174, R175) -/

/-- A Host Port has at most one request outstanding, in its slot or answered in its buffer; OVERRUN stands only on an
outstanding one; and the cached response answers under the tag of the cached header (R174, R175). -/
def Link.Legal (l : Link) : Prop :=
  (l.slot.isSome = true → l.response = none) ∧ (l.overrun = true → l.outstanding = true) ∧
    (∀ r ∈ l.slot, r.payload.length ≤ Config.payloadMax) ∧
    ∀ k ∈ l.cache, headerTag k.header = k.response.tag

/-- Every Host Port is legal. -/
def State.LinksLegal (s : State) : Prop := ∀ p, (s.link p).Legal

/-- The responses a Host Port keeps are within the payload of a response frame (R177). -/
def Link.ResponsesFit (l : Link) : Prop :=
  (∀ x ∈ l.response, x.reply.payload.length ≤ Config.responseMax) ∧
    ∀ k ∈ l.cache, k.response.reply.payload.length ≤ Config.responseMax

/-- The responses of every Host Port fit. -/
def State.ResponsesFit (s : State) : Prop := ∀ p, (s.link p).ResponsesFit

/-! ### Requests as their hosts send them -/

/-- The port and the request of a command that admits a request (R176); none for the other commands. -/
def requestOf (i : Instr) : Option (PortId × Request) :=
  match i with
  | .join p tag ws => some (p, { kind := .join, tag := tag, payload := ws })
  | .leave p tag ws => some (p, { kind := .leave, tag := tag, payload := ws })
  | .renew p tag ws => some (p, { kind := .renew, tag := tag, payload := ws })
  | .status p tag ws => some (p, { kind := .status, tag := tag, payload := ws })
  | .hubInfo p tag ws => some (p, { kind := .hubInfo, tag := tag, payload := ws })
  | .subscribe p tag ws => some (p, { kind := .subscribe, tag := tag, payload := ws })
  | .parkOpen p tag ws => some (p, { kind := .parkOpen, tag := tag, payload := ws })
  | .parkWrite p tag ws => some (p, { kind := .parkWrite, tag := tag, payload := ws })
  | .parkClose p tag ws => some (p, { kind := .parkClose, tag := tag, payload := ws })
  | .parkAbort p tag ws => some (p, { kind := .parkAbort, tag := tag, payload := ws })
  | .claim p tag ws => some (p, { kind := .claim, tag := tag, payload := ws })
  | .readImage p tag ws => some (p, { kind := .readImage, tag := tag, payload := ws })
  | .writeImage p tag ws => some (p, { kind := .writeImage, tag := tag, payload := ws })
  | .edit p tag ws => some (p, { kind := .edit, tag := tag, payload := ws })
  | .returnFrame p tag ws => some (p, { kind := .returnFrame, tag := tag, payload := ws })
  | .repark p tag ws => some (p, { kind := .repark, tag := tag, payload := ws })
  | .retire p tag ws => some (p, { kind := .retire, tag := tag, payload := ws })
  | .claimWait p tag ws => some (p, { kind := .claimWait, tag := tag, payload := ws })
  | .claimResult p tag ws => some (p, { kind := .claimResult, tag := tag, payload := ws })
  | .claimCancel p tag ws => some (p, { kind := .claimCancel, tag := tag, payload := ws })
  | .suspend p tag ws => some (p, { kind := .suspend, tag := tag, payload := ws })
  | .resumeTop p tag ws => some (p, { kind := .resumeTop, tag := tag, payload := ws })
  | .preempt p tag ws => some (p, { kind := .preempt, tag := tag, payload := ws })
  | .takePreempt p tag ws => some (p, { kind := .takePreempt, tag := tag, payload := ws })
  | .endPreempt p tag ws => some (p, { kind := .endPreempt, tag := tag, payload := ws })
  | .isolationList p tag ws => some (p, { kind := .isolationList, tag := tag, payload := ws })
  | .inspect p tag ws => some (p, { kind := .inspect, tag := tag, payload := ws })
  | .isolationWrite p tag ws => some (p, { kind := .isolationWrite, tag := tag, payload := ws })
  | .repair p tag ws => some (p, { kind := .repair, tag := tag, payload := ws })
  | .discard p tag ws => some (p, { kind := .discard, tag := tag, payload := ws })
  | .noticeRead p tag ws => some (p, { kind := .noticeRead, tag := tag, payload := ws })
  | .classSet p tag ws => some (p, { kind := .classSet, tag := tag, payload := ws })
  | .classGet p tag ws => some (p, { kind := .classGet, tag := tag, payload := ws })
  | .requestFrame _ _ => none
  | .readWindow _ _ => none
  | .breakFrame _ => none
  | .hubReset => none
  | .hubReady => none
  | .timebaseTick => none
  | .leaseExpiry _ => none
  | .waitExpiry _ => none
  | .graceExpiry _ => none
  | .agingPromotion _ _ => none
  | .fault _ _ _ => none

/-- The handle word of a request: the handle of a frame in bits 15..0, `upper` above it (R180). -/
def Hub.handleWord (h : Hub) (i : FrameId) (upper : BitVec 16) : Word := upper ++ h.handle i

/-- The upper half of a handle word with an offset and a count (R180). -/
def rangeHalf (off n : Nat) : BitVec 16 := 0#5 ++ BitVec.ofNat 5 n ++ BitVec.ofNat 6 off

/-- A class-mask word, with a timeout in its upper half (R180). -/
def maskWord (m : ClassSet) (upper : BitVec 16) : Word := upper ++ 0#8 ++ m

/-- The two words of a JOIN (R180). -/
def joinWords (t : Settings) : List Word :=
  [BitVec.ofNat 16 t.grace ++ BitVec.ofNat 16 t.lease, maskWord t.mask 0]

/-- The word of a PREEMPT (R180). -/
def preemptWord (t : PortId) (c : ClassId) : Word :=
  0#21 ++ BitVec.ofFin (w := 3) c ++ 0#6 ++ BitVec.ofFin (w := 2) t

/-- The word of a CLASS_SET (R180). -/
def classSetWord (a : ClassSetArgs) : Word :=
  BitVec.ofNat 16 a.aging ++ 0#1 ++ BitVec.ofNat 7 a.limit ++ 0#4 ++ BitVec.ofBool a.enabled ++
    BitVec.ofFin (w := 3) a.cls

/-- The word of a CLASS_GET or NOTICE_READ (R180). -/
def threeWord (n : BitVec 3) : Word := 0#29 ++ n

/-- The word of a field change (R180). -/
def changeWord (f : FieldChange) : Word := 0#20 ++ f.value ++ 0#4 ++ f.selector

/-- The words of a PARK_OPEN that carries these fields (R180). -/
def parkOpenWords (a : ParkOpenArgs) : List Word :=
  let trapHalf : BitVec 7 :=
    match a.control.trap with
    | none => 0
    | some t => BitVec.ofNat 3 t.width ++ 0#1 ++ BitVec.ofBool t.write ++ 1#1 ++ BitVec.ofBool a.control.waitMarker
  let upper : BitVec 16 :=
    match a.control.trap with
    | none => 0#1 ++ BitVec.ofNat 7 a.len ++ 0#7 ++ BitVec.ofBool a.control.waitMarker
    | some _ => 0#1 ++ BitVec.ofNat 7 a.len ++ 0#1 ++ trapHalf
  (upper ++ 0#2 ++ BitVec.ofNat 2 a.control.resume ++ a.control.affinity ++ 0#2 ++ BitVec.ofNat 2 a.control.base ++
      0#1 ++ BitVec.ofFin (w := 3) a.control.cls) ::
    halfWord a.check ::
    match a.control.trap with
    | none => []
    | some t => t.address :: t.value.toList

/-! ### What a command changes, and what it leaves -/

/-- What a Host Port and the arbiter hold once a request has been admitted and answered, and that every other Host
Port, the readiness and the waiting commands are as before (R135, R175, R176). -/
structure State.Answers (s t : State) (p : PortId) (r : Request) (reply : Reply) : Prop where
  slot      : (t.link p).slot = none
  response  : (t.link p).response = some { tag := r.tag, reply := reply }
  cache     : (t.link p).cache =
    if r.kind = .leave ∧ reply.result = .ok then none
    else some { header := r.header, trailer := r.trailer, response := { tag := r.tag, reply := reply } }
  overrun   : (t.link p).overrun = (s.link p).overrun
  hso       : (t.link p).hso = (s.link p).hso
  others    : ∀ q, q ≠ p → t.link q = s.link q
  arbiter   : t.arbiter = p + 1
  readiness : t.readiness = s.readiness
  pending   : t.pending = s.pending

/-- The arbiter admits the request of this command now (R176). -/
def Admitted (i : Instr) (s : State) : Prop :=
  match requestOf i with
  | some (p, r) => s.admitsNow p r = true
  | none => False

/-- The command goes on: its request is answered `reply`, and the hub behind the Host Ports is left as `after` says. -/
def Takes (i : Instr) (s : State) (reply : Reply) (after : Hub → Prop) : Prop :=
  match requestOf i with
  | some (p, r) => ∃ t, exec i s = .next t ∧ s.Answers t p r reply ∧ after t.hub
  | none => False

/-- The request is answered with a bare result and changes nothing behind the Host Ports: a refusal. -/
def Refused (i : Instr) (s : State) (why : Result) : Prop := Takes i s (.bare why) (fun g => g = s.hub)

/-- The parts of the hub a command may change. -/
structure Reach where
  frames    : FrameId → Prop := fun _ => False
  ports     : PortId → Prop := fun _ => False
  classes   : ClassId → Prop := fun _ => False
  blocks    : BlockId → Prop := fun _ => False
  words     : Nat → Prop := fun _ => False
  waitList  : Prop := False
  isolation : Prop := False

/-- Every frame, port, class, block, stored word and list outside the reach is as before. -/
structure Hub.SameBeyond (h g : Hub) (x : Reach) : Prop where
  frames    : ∀ i, ¬ x.frames i → g.frame i = h.frame i
  ports     : ∀ p, ¬ x.ports p → g.port p = h.port p
  classes   : ∀ k, ¬ x.classes k → g.cls k = h.cls k
  blocks    : ∀ b, ¬ x.blocks b → g.block b = h.block b
  words     : ∀ a, ¬ x.words a → g.memory.read a = h.memory.read a
  waitList  : ¬ x.waitList → g.waitList = h.waitList
  isolation : ¬ x.isolation → g.isolation = h.isolation

/-- A port after notices are posted to it in this order: an ONLINE port appends them, another is not told (R150,
R151). -/
def Port.told (x : Port) (ns : List Notice) : Port :=
  if x.state.isOnline then { x with notices := ns.foldl appendNotice x.notices } else x

/-- The CLASS_READY an insertion posts to a port: one where the queue was empty and the port subscribes (R37). -/
def readyFor (wasEmpty : Bool) (k : ClassId) (x : Port) : List Notice :=
  if wasEmpty && x.subscribes k then [.classReady k] else []

/-! ### The spec's tables and conditions in its own words -/

/-- The states, with the owner, in which a request that names a handle takes a frame (the table of R6); none for a
request that names no handle. -/
def ReqKind.accepts : ReqKind → Option (PortId → Place → Bool)
  | .parkWrite => some Place.isFillingOf
  | .parkClose => some Place.isFillingOf
  | .parkAbort => some Place.isFillingOf
  | .readImage => some Place.isKeptOf
  | .edit => some Place.isKeptOf
  | .writeImage => some Place.isHeldOf
  | .returnFrame => some Place.isHeldOf
  | .repark => some Place.isHeldOf
  | .retire => some Place.isHeldOf
  | .suspend => some Place.isHeldOf
  | .inspect => some (fun _ => Place.isIsolated)
  | .isolationWrite => some (fun _ => Place.isIsolated)
  | .repair => some (fun _ => Place.isIsolated)
  | .discard => some (fun _ => Place.isIsolated)
  | _ => none

/-- The least and the greatest number of payload words of a request (the table of R178). -/
def ReqKind.payloadRange : ReqKind → Nat × Nat
  | .join => (2, 2)
  | .parkOpen => (2, 4)
  | .parkWrite => (2, 17)
  | .writeImage => (2, 17)
  | .isolationWrite => (2, 17)
  | .edit => (2, 2)
  | .repair => (1, 5)
  | .subscribe => (1, 1)
  | .parkClose => (1, 1)
  | .parkAbort => (1, 1)
  | .claim => (1, 1)
  | .readImage => (1, 1)
  | .returnFrame => (1, 1)
  | .repark => (1, 1)
  | .retire => (1, 1)
  | .claimWait => (1, 1)
  | .suspend => (1, 1)
  | .preempt => (1, 1)
  | .inspect => (1, 1)
  | .discard => (1, 1)
  | .noticeRead => (1, 1)
  | .classSet => (1, 1)
  | .classGet => (1, 1)
  | _ => (0, 0)

/-- The unused bits of the first payload word of a request (R180). -/
def ReqKind.unusedBits : ReqKind → Word
  | .subscribe => 0xFFFFFF00
  | .claim => 0xFFFFFF00
  | .claimWait => 0x0000FF00
  | .preempt => 0xFFFFF8FC
  | .classSet => 0x000080F0
  | .classGet => 0xFFFFFFF8
  | .noticeRead => 0xFFFFFFF8
  | .parkOpen => 0x8088C0C8
  | .parkWrite => 0xFFC00000
  | .writeImage => 0xFFC00000
  | .isolationWrite => 0xFFC00000
  | .readImage => 0xF8000000
  | .inspect => 0xF8000000
  | .repair => 0xFFF80000
  | .parkClose => 0xFFFF0000
  | .parkAbort => 0xFFFF0000
  | .returnFrame => 0xFFFF0000
  | .retire => 0xFFFF0000
  | .suspend => 0xFFFF0000
  | .discard => 0xFFFF0000
  | .edit => 0xFFFF0000
  | _ => 0

/-- The field changes the first word of a REPAIR announces (R180). -/
def repairCount (ws : List Word) : Nat :=
  match ws with
  | [] => 0
  | w :: _ => (bits w 16 2).toNat

/-- The unused bits of payload word `j` of a request (R180). Image words, addresses and write values have none. -/
def ReqKind.unusedAt (k : ReqKind) (ws : List Word) (j : Nat) : Word :=
  if j = 0 then k.unusedBits
  else
    match k with
    | .join => 0xFFFFFF00
    | .parkOpen => if j = 1 then 0xFFFF0000 else 0
    | .edit => 0xFFFFF0F0
    | .repair => if j ≤ repairCount ws then 0xFFFFF0F0 else 0xFFFF0000
    | _ => 0

/-- The payload breaks the form of its request (R178, R180): its length is outside the range of the table, a word has an
unused bit set, or the length of a PARK_OPEN or REPAIR is not the one its first word announces. -/
def ReqKind.Misformed (k : ReqKind) (ws : List Word) : Prop :=
  ws.length < k.payloadRange.1 ∨ k.payloadRange.2 < ws.length ∨
    (∃ j w, ws[j]? = some w ∧ w &&& k.unusedAt ws j ≠ 0) ∨
    (k = .parkOpen ∧ ∃ w ∈ ws.head?,
      bit w 17 = false ∧ ws.length ≠ 2 ∨ bit w 17 = true ∧ ws.length ≠ 3 ∧ ws.length ≠ 4) ∨
    (k = .repair ∧ ∃ w ∈ ws.head?, ws.length ≠ 1 + (bits w 16 2).toNat + (bit w 18).toNat)

/-- The table of R178: each request with its code. -/
def requestCodes : List (ReqKind × BitVec 8) :=
  [(.join, 0x01), (.leave, 0x02), (.renew, 0x03), (.status, 0x04), (.hubInfo, 0x05), (.subscribe, 0x06),
   (.parkOpen, 0x10), (.parkWrite, 0x11), (.parkClose, 0x12), (.parkAbort, 0x13), (.claim, 0x20),
   (.readImage, 0x21), (.writeImage, 0x22), (.edit, 0x23), (.returnFrame, 0x24), (.repark, 0x25), (.retire, 0x26),
   (.claimWait, 0x28), (.claimResult, 0x29), (.claimCancel, 0x2A), (.suspend, 0x30), (.resumeTop, 0x31),
   (.preempt, 0x38), (.takePreempt, 0x39), (.endPreempt, 0x3A), (.isolationList, 0x40), (.inspect, 0x41),
   (.isolationWrite, 0x42), (.repair, 0x43), (.discard, 0x44), (.noticeRead, 0x48), (.classSet, 0x50),
   (.classGet, 0x51)]

/-- The table of R179: each result with its code. -/
def resultCodes : List (Result × BitVec 8) :=
  [(.ok, 0x00), (.empty, 0x01), (.waiting, 0x02), (.granted, 0x03), (.cancelled, 0x04), (.expired, 0x05),
   (.none, 0x06), (.posted, 0x07), (.latched, 0x08), (.linkError, 0x10), (.malformed, 0x11),
   (.unknownRequest, 0x12), (.sequence, 0x13), (.notJoined, 0x18), (.fenced, 0x19), (.alreadyJoined, 0x1A),
   (.busyHolding, 0x1B), (.badValue, 0x20), (.badHandle, 0x21), (.invalid, 0x22), (.readOnly, 0x23),
   (.holdFull, 0x28), (.stackFull, 0x29), (.stackEmpty, 0x2A), (.fillLimit, 0x2B), (.classFull, 0x2C),
   (.noFrame, 0x2D), (.noSpace, 0x2E), (.waitExists, 0x2F), (.outOfOrder, 0x30), (.incomplete, 0x31),
   (.modified, 0x32), (.memoryError, 0x38), (.checkMismatch, 0x39), (.preemptLevel, 0x40), (.self, 0x41),
   (.targetOffline, 0x42), (.classDisabled, 0x43), (.alreadyPending, 0x44), (.latchFull, 0x45),
   (.notPending, 0x46), (.notServing, 0x47), (.holding, 0x48), (.nested, 0x49), (.population, 0x50)]

/-- A control record as a request carries it is valid (the list of R15); a resume mode is 0 NEXT, 1 WAIT or
2 RETRY. -/
def RawControl.Valid (r : RawControl) (enabled : Bool) : Prop :=
  enabled = true ∧ r.affinity ≠ 0#4 ∧ r.base ≤ 3 ∧ r.resume ≤ 2 ∧ (r.resume = 1 → r.waitMarker = true) ∧
    (r.resume = 2 → r.trap.isSome = true) ∧
    ∀ t ∈ r.trap, (t.width = 1 ∨ t.width = 2 ∨ t.width = 4) ∧ t.value.isSome = t.write

/-- A control record with the field a change names at the value it gives: selector 1 base priority, 2 affinity, 3 resume
mode (R14, R180). -/
def FieldChange.setIn (r : RawControl) (f : FieldChange) : RawControl :=
  if f.selector = 1 then { r with base := f.value.toNat }
  else if f.selector = 2 then { r with affinity := f.value }
  else if f.selector = 3 then { r with resume := f.value.toNat }
  else r

/-- The fields of a PARK_OPEN fit the bits R180 gives them. -/
def ParkOpenArgs.Fits (a : ParkOpenArgs) : Prop :=
  a.control.base < 4 ∧ a.control.resume < 4 ∧ a.len < 128 ∧ ∀ t ∈ a.control.trap, t.width < 8

/-! ### What events do to the image store -/

/-- The word positions, in the block at position `j` of a block list, of the `n` image words from offset `off`
onward (R16): bit k for word position k. -/
def writtenMask (off n j : Nat) : BitVec 8 :=
  (List.range 8).foldl (fun m k => if off ≤ 8 * j + k ∧ 8 * j + k < off + n then m ||| (1#8 <<< k) else m) 0#8

/-- A block after a write of the word positions `m`, when its positions in use are `used` (R19): a damaged block takes
the positions into its record, and is sound again once the record holds every position in use. -/
def Block.after (x : Block) (used m : BitVec 8) : Block :=
  if m = 0#8 ∨ x.damaged = false then x
  else if (x.rewritten ||| m) &&& used = used then { x with damaged := false, rewritten := 0 }
  else { x with rewritten := x.rewritten ||| m }

/-- Image words are stored from offset `off` onward, and nothing else in the Image Store changes but the damage marks
and rewritten-word records of the blocks written (R16, R19). -/
structure Hub.Stores (h g : Hub) (c : Context) (off : Nat) (ws : List Word) : Prop where
  written : ∀ k v, ws[k]? = some v → ∀ a ∈ c.address (off + k), g.memory.read a = v
  kept    : ∀ a, (∀ k, k < ws.length → c.address (off + k) ≠ some a) → g.memory.read a = h.memory.read a
  marks   : ∀ j b, c.blocks[j]? = some b →
    g.block b = (h.block b).after (usedMask c.len j) (writtenMask off ws.length j)
  others  : ∀ b, b ∉ c.blocks → g.block b = h.block b

/-- A frame returns to FREE, its generation advances by one, 1023 being followed by 1, its blocks rejoin the free set
with their marks, and the population of its class falls by one (R18). -/
structure Hub.Frees (h g : Hub) (i : FrameId) (c : Context) : Prop where
  frame      : g.frame i = { gen := if (h.frame i).gen = 1023 then 1 else (h.frame i).gen + 1, ctx := none }
  blocks     : ∀ b ∈ c.blocks, g.block b = { h.block b with free := true }
  population : g.cls c.control.cls = { h.cls c.control.cls with population := (h.cls c.control.cls).population - 1 }

/-! ### What becomes of a frame its owner gives up -/

/-- A port once a frame has left the list of its owner, the others closing up (R39, R58, R103). -/
def Hub.portWithout (h : Hub) (i : FrameId) (c : Context) (q : PortId) : Port :=
  let x := h.port q
  match c.place with
  | .filling o _ => if o = q then { x with filling := x.filling.erase i } else x
  | .held o _ => if o = q then { x with hold := x.hold.erase i } else x
  | .stacked o => if o = q then { x with stack := x.stack.eraseP (fun e => e.frame == i) } else x
  | _ => x

/-- No waiting claim takes the frame, and it is inserted in its base band, at the head or the tail as its cause says
(R25, R26, R37). `ends` names a port whose wait ends as EXPIRED in the same event (R90). -/
structure Hub.Inserts (h g : Hub) (i : FrameId) (c : Context) (cause : Cause) (passed ends : Option PortId) :
    Prop where
  untaken  : ∀ q ∈ h.waitList, h.claimTakes c passed q = false
  frame    : g.frame i =
    { h.frame i with ctx := some { c with cause := some cause, place := .queued c.control.base 0 } }
  queue    : ∃ ahead behind, (h.cls c.control.cls).queue = ahead ++ behind ∧
    g.cls c.control.cls = { h.cls c.control.cls with queue := ahead ++ i :: behind } ∧
    if cause = .returned ∨ cause = .reclaimed then
      (∀ j ∈ ahead, c.control.base < h.effOf j) ∧ ∀ j ∈ behind, h.effOf j ≤ c.control.base
    else (∀ j ∈ ahead, c.control.base ≤ h.effOf j) ∧ ∀ j ∈ behind, h.effOf j < c.control.base
  ports    : ∀ q, g.port q =
    let x := (h.portWithout i c q).told
      (readyFor (h.cls c.control.cls).queue.isEmpty c.control.cls (h.port q))
    if ends = some q then { x with claim := .expired } else x
  waitList : g.waitList = match ends with
    | some p => h.waitList.erase p
    | none => h.waitList

/-- The oldest waiting claim that takes the frame receives it into its port's hold set, its record leaves the Wait
List and becomes GRANTED with the frame's handle, and no queue changes (R60, R87, R88). -/
structure Hub.Grants (h g : Hub) (i : FrameId) (c : Context) (cause : Cause) (passed : Option PortId)
    (q : PortId) : Prop where
  taken   : h.claimTakes c passed q = true
  oldest  : ∃ ahead behind, h.waitList = ahead ++ q :: behind ∧ g.waitList = ahead ++ behind ∧
    ∀ r ∈ ahead, h.claimTakes c passed r = false
  frame   : g.frame i = { h.frame i with ctx := some { c with cause := some cause, place := .held q false } }
  port    : g.port q =
    { h.portWithout i c q with hold := (h.portWithout i c q).hold ++ [i], claim := .granted (h.handle i) }
  ports   : ∀ r, r ≠ q → g.port r = h.portWithout i c r
  classes : ∀ k, g.cls k = h.cls k

/-- The command makes its frame available with this cause, no claim passed over: the oldest waiting claim that takes it
receives it, or it is inserted in its base band (R25, R87). The Isolation List is then `list`. -/
def MakesAvailable (i : Instr) (s : State) (j : FrameId) (d : Context) (cause : Cause) (list : List FrameId) : Prop :=
  let rest (g : Hub) : Prop := g.isolation = list ∧
    s.hub.SameBeyond g { frames := (· = j), ports := fun _ => True, classes := (· = d.control.cls),
                         waitList := True, isolation := True }
  (∃ q, Takes i s (.okWith [outcomeWord (s.hub.handle j) (.granted q)])
    (fun g => s.hub.Grants g j d cause none q ∧ rest g)) ∨
  Takes i s (.okWith [outcomeWord (s.hub.handle j) .queued])
    (fun g => s.hub.Inserts g j d cause none none ∧ rest g)

/-- A frame that is given up goes to the oldest waiting claim that takes it, or into its base band, as the outcome
says; nothing else changes (R25, R26, R87, R88). -/
def Hub.GivesUp (h g : Hub) (i : FrameId) (c : Context) (cause : Cause) (passed : Option PortId) (o : FrameOutcome) :
    Prop :=
  (match o with
   | .granted q => h.Grants g i c cause passed q
   | .queued => h.Inserts g i c cause passed none
   | .isolated _ => False) ∧
    h.SameBeyond g { frames := (· = i), ports := fun _ => True, classes := (· = c.control.cls), waitList := True }

/-- Notices are posted to one port, and nothing else changes (R150, R151). -/
def Hub.Tells (h g : Hub) (q : PortId) (ns : List Notice) : Prop :=
  g.port q = (h.port q).told ns ∧ h.SameBeyond g { ports := (· = q) }

/-- A frame comes from the stack of a port to the end of its hold set, and nothing else changes (R60, R121). -/
def Hub.Restores (h g : Hub) (p : PortId) (i : FrameId) (c : Context) : Prop :=
  g.frame i = { h.frame i with ctx := some { c with place := .held p false } } ∧
    g.port p = { h.port p with hold := (h.port p).hold ++ [i] } ∧
    h.SameBeyond g { frames := (· = i), ports := (· = p) }

/-- END_PREEMPT deals with the frames of the group one after another, each as the ones before it left the hub (R121,
R27, R89): a frame whose affinity includes the port is restored, any other is given up with cause RETURNED. `os` are the
outcomes of the diverted frames. -/
def Hub.DealsInTurn (p : PortId) : List FrameId → List FrameOutcome → Hub → Hub → Prop
  | [], os, h, g => os = [] ∧ g = h
  | i :: is, os, h, g => ∃ c, h.ctx i = some c ∧
    if c.allows p = true then ∃ m, h.Restores m p i c ∧ Hub.DealsInTurn p is os m g
    else ∃ o rest m, os = o :: rest ∧ h.GivesUp m i c .returned none o ∧ Hub.DealsInTurn p is rest m g

/-- A frame leaves its owner and enters isolation at the tail of the list, and its origin and the port that owned it
are each told once (R20, R160). -/
structure Hub.Isolates (h g : Hub) (i : FrameId) (c : Context) (r : IsoReason) : Prop where
  frame     : g.frame i = { h.frame i with ctx := some { c with place := .isolated r } }
  isolation : g.isolation = h.isolation ++ [i]
  ports     : ∀ q, g.port q =
    (h.portWithout i c q).told
      (if q = c.origin ∨ c.place.owner = some q then [.isolated (h.handle i) r] else [])

/-- The outcome of the image-check computation (R21): a damaged block first, then the sum. -/
def Hub.CheckFinds (h : Hub) (c : Context) (o : Option IsoReason) : Prop :=
  if ∃ b ∈ c.blocks, (h.block b).damaged = true then o = some .memoryError
  else if halfSum (h.readWords c 0 c.len) = c.check then o = none
  else o = some .checkMismatch

/-! ### Claims -/

/-- The frame is QUEUED, of a class in the mask, and the port is in its affinity (R62). -/
def Hub.Eligible (h : Hub) (p : PortId) (m : ClassSet) (i : FrameId) : Prop :=
  ∃ c, h.ctx i = some c ∧ c.place.isQueued = true ∧ c.inMask m = true ∧ c.allows p = true

/-- The class of a frame, 0 for a FREE one. -/
def Hub.classOf (h : Hub) (i : FrameId) : ClassId :=
  match h.ctx i with
  | some c => c.control.cls
  | none => 0

/-- The frame the selection of R62 takes: the highest effective priority, then the lowest class, then the first in
queue order, among the eligible frames. -/
structure Hub.Best (h : Hub) (p : PortId) (m : ClassSet) (i : FrameId) : Prop where
  eligible : h.Eligible p m i
  highest  : ∀ j, h.Eligible p m j → h.effOf j ≤ h.effOf i
  lowest   : ∀ j, h.Eligible p m j → h.effOf j = h.effOf i → h.classOf i ≤ h.classOf j
  first    : ∃ ahead behind, (h.cls (h.classOf i)).queue = ahead ++ i :: behind ∧
    ∀ j ∈ ahead, h.Eligible p m j → h.effOf j < h.effOf i

/-- A claimed frame leaves its queue and enters the hold set of the port (R28, R60). -/
structure Hub.Claims (h g : Hub) (p : PortId) (i : FrameId) (c : Context) : Prop where
  frame : g.frame i = { h.frame i with ctx := some { c with place := .held p false } }
  queue : g.cls c.control.cls = { h.cls c.control.cls with queue := (h.cls c.control.cls).queue.erase i }
  port  : g.port p = { h.port p with hold := (h.port p).hold ++ [i] }
  rest  : h.SameBeyond g { frames := (· = i), ports := (· = p), classes := (· = c.control.cls) }

/-- The answer to a claim: the frame header record of the frame held, with the effective priority it had in its queue
(R28, R63). -/
def Hub.claimAnswer (h : Hub) (p : PortId) (i : FrameId) (c : Context) : List Word :=
  headerRecord (h.handle i) { c with place := .held p false } (h.effOf i)

/-! ### The fence (R139 to R144) -/

/-- How many of these frames are of this class. -/
def Hub.countOf (h : Hub) (k : ClassId) (is : List FrameId) : Nat := is.countP (fun i => h.classOf i == k)

/-- What another port keeps through a fence or an END_PREEMPT: its notices are only added to, and at most one frame
joins its hold set, by the grant of its waiting claim. -/
structure Port.OnlyGains (x y : Port) (h : Hub) (moved : List FrameId) : Prop where
  kept    : y.state = x.state ∧ y.epoch = x.epoch ∧ y.settings = x.settings ∧ y.filling = x.filling ∧
    y.stack = x.stack ∧ y.latch = x.latch
  notices : ∃ more, y.notices = x.notices ++ more
  hold    : (y.hold = x.hold ∧ y.claim = x.claim) ∨
    ∃ i ∈ moved, y.hold = x.hold ++ [i] ∧ y.claim = .granted (h.handle i) ∧ x.claim.isWaiting = true

/-- A frame that moved is QUEUED at its base priority or HELD by a port whose waiting claim took it, with this cause;
every other field is as before (R25, R88). -/
def Hub.MovedOn (h g : Hub) (i : FrameId) (cause : Cause) (passed : Option PortId) : Prop :=
  ∀ c ∈ h.ctx i, ∃ place, g.frame i = { h.frame i with ctx := some { c with cause := some cause, place := place } } ∧
    (place = .queued c.control.base 0 ∨ ∃ q, place = .held q false ∧ h.claimTakes c passed q = true)

/-- The hub as the first four steps of a fence leave it, for the frames that the fifth reclaims (R139 to R142): the port
is FENCED and has nothing left, its claim is off the Wait List, and the requester of each notice in its latch has been
sent PREEMPT_CANCELLED, the served one first. -/
structure Hub.FenceStarts (h g : Hub) (p : PortId) : Prop where
  port     : g.port p =
    { h.port p with state := .fenced, hold := [], filling := [], stack := [], claim := .none, latch := .clear }
  others   : ∀ q, q ≠ p → g.port q = (h.port q).told
    (((h.port p).latch.notices.filter (fun n => n.requester == q)).map (fun n => .preemptCancelled p n.cls))
  waitList : g.waitList = h.waitList.erase p
  frames   : ∀ i, i ∉ (h.port p).filling → g.frame i = h.frame i
  queues   : ∀ k, (g.cls k).queue = (h.cls k).queue

/-- The fifth step of a fence, frame by frame, each as the ones before it left the hub (R143, R27, R89): the frame is
given up with cause RECLAIMED, passing over the fenced port, and then RECLAIMED is posted to its origin, unless that is
the fenced port. -/
def Hub.ReclaimsInTurn (p : PortId) : List FrameId → Hub → Hub → Prop
  | [], h, g => g = h
  | i :: is, h, g => ∃ c o m n, h.ctx i = some c ∧ h.GivesUp m i c .reclaimed (some p) o ∧
    m.Tells n c.origin (if c.origin = p then [] else [.reclaimed (h.handle i) p]) ∧ Hub.ReclaimsInTurn p is n g

/-- The fence of a port: what it takes from the port and where that goes (R139 to R144). -/
structure Hub.Fences (h g : Hub) (p : PortId) (why : FenceReason) : Prop where
  port     : g.port p =
    { h.port p with
      state := .fenced, hold := [], filling := [], stack := [], claim := .none, latch := .clear,
      notices := [.fenceReport why ((h.port p).hold.length + (h.port p).stack.length) (h.port p).filling.length
        (h.port p).claim.isWaiting (h.port p).latch.notices.length] }
  filling  : ∀ i ∈ (h.port p).filling,
    g.frame i = { gen := if (h.frame i).gen = 1023 then 1 else (h.frame i).gen + 1, ctx := none }
  moved    : ∀ i ∈ (h.port p).reclaimOrder, h.MovedOn g i .reclaimed (some p)
  frames   : ∀ i, i ∉ (h.port p).filling → i ∉ (h.port p).reclaimOrder → g.frame i = h.frame i
  blocks   : ∀ b, g.block b =
    { h.block b with free := (h.block b).free || (h.port p).filling.any (fun i => (h.blocksOf i).contains b) }
  words    : ∀ a, g.memory.read a = h.memory.read a
  isolation : g.isolation = h.isolation
  classes  : ∀ k, ∃ q, g.cls k =
      { h.cls k with queue := q, population := (h.cls k).population - h.countOf k (h.port p).filling } ∧
    ((h.cls k).queue).Sublist q
  waitList : g.waitList.Sublist h.waitList ∧ p ∉ g.waitList
  others   : ∀ q, q ≠ p → (h.port q).OnlyGains (g.port q) h (h.port p).reclaimOrder
  turns    : h.QueuesBanded → ∃ m e, h.FenceStarts m p ∧
    Hub.ReclaimsInTurn p ((h.port p).hold.reverse ++ (h.port p).stack.map StackEntry.frame) m e ∧
    e.SameBeyond g { ports := (· = p) }

/-! ### Timers -/

/-- No timer has run out and no promotion is due: every event that fell due has been taken. -/
def State.NothingDue (s : State) : Prop :=
  (∀ p, (s.hub.port p).leaseDue = false ∧ (s.hub.port p).waitDue = false ∧
    ∀ n, (s.hub.port p).latch ≠ .pending n (some 0)) ∧
  ∀ k b, s.hub.dueFrames k b = []

/-- The commands that take every event that can have fallen due, in the model's order (notes/assumptions/3.md). -/
def dueCommands : List Instr :=
  allClasses.flatMap (fun k => [.agingPromotion k 2, .agingPromotion k 1, .agingPromotion k 0]) ++
    allPorts.map .waitExpiry ++ allPorts.map .graceExpiry ++ allPorts.map .leaseExpiry

/-- Commands run one after another, as far as they go on. -/
def runAll : List Instr → State → Host.Outcome State Fault Refusal
  | [], s => .next s
  | i :: is, s =>
    match exec i s with
    | .next t => runAll is t
    | .fault f => .fault f
    | .refused r => .refused r

end Sys2Proof.Machine
end

