-- ==== Sys2Proof/Certificates/Slice0/Obligations.lean ====
section
/-!
DEFINITION. The statements about the hub, for the provers. Each docstring names the rule of spec/ a statement
formalises; the witnesses that its hypotheses can be met stand in Tests/Slice0.lean.
-/
open Sys2Proof Sys2Proof.Machine

/-! ### The machine and the admission of requests -/

/-- Section 2.2, and notes/assumptions/2.md for the empty queue: one step runs the command at the front of the queue on
the state with the queue's rest, and on an empty queue it changes nothing. -/
def Obligations.StepRunsTheFrontCommand : Prop :=
  (∀ (s : State) (i : Instr) (rest : List Instr), s.pending = i :: rest →
    step s = exec i { s with pending := rest }) ∧
  ∀ s : State, s.pending = [] → step s = .next s

/-- R175, R176: each of the 33 request commands, when the arbiter admits its request, goes on to a state in which the
request has been answered. The arbiter admits the first filled slot from its pointer upward, modulo 4; its pointer is
port 0 after hub reset. By the model's choice (notes/assumptions/1.md) a request command is turned away with no effect
when the arbiter does not admit its request. -/
def Obligations.AdmittedRequestsAreAnsweredInRotation : Prop :=
  (∀ (i : Instr) (s : State), (requestOf i).isSome = true →
     (Admitted i s → ∃ reply, Takes i s reply (fun _ => True)) ∧ (¬ Admitted i s → exec i s = .next s)) ∧
  (State.reset.arbiter = 0 ∧
   (∀ (s : State) (k : Fin 4), (s.link (s.arbiter + k)).slot.isSome = true →
     (∀ j : Fin 4, j < k → (s.link (s.arbiter + j)).slot = none) → s.nextAdmitted = some (s.arbiter + k)) ∧
   ∀ s : State, (∀ p, (s.link p).slot = none) → s.nextAdmitted = none)

/-- R128: the session check of every request. -/
def Obligations.SessionCheckGoesByPortState : Prop :=
  ∀ (i : Instr) (s : State) (p : PortId) (r : Request), requestOf i = some (p, r) → Admitted i s →
    ((s.hub.port p).state = .offline →
      if r.kind = .join ∨ r.kind = .hubInfo then
        ∃ reply, Takes i s reply (fun _ => True) ∧ reply.result ≠ .notJoined ∧ reply.result ≠ .fenced
      else Refused i s .notJoined) ∧
    ((s.hub.port p).state = .fenced →
      if r.kind = .join ∨ r.kind = .hubInfo ∨ r.kind = .status ∨ r.kind = .noticeRead then
        ∃ reply, Takes i s reply (fun _ => True) ∧ reply.result ≠ .notJoined ∧ reply.result ≠ .fenced
      else Refused i s .fenced) ∧
    (s.hub.online p = true →
      ∃ reply, Takes i s reply (fun _ => True) ∧ reply.result ≠ .notJoined ∧ reply.result ≠ .fenced)

/-- R6: the handle check of the 14 requests that name a frame, from an ONLINE port: BAD_HANDLE, with nothing changed,
exactly when the generation differs, or the frame is in no state (with its owner) that the request accepts. -/
def Obligations.HandleCheckGoesByFrameAndOwner : Prop :=
  ∀ (i : Instr) (s : State) (p : PortId) (r : Request) (accepts : PortId → Place → Bool) (w : Word)
    (rest : List Word), requestOf i = some (p, r) → Admitted i s → s.hub.online p = true →
    r.kind.accepts = some accepts → r.payload = w :: rest →
    if handleGen (wordHandle w) = (s.hub.frame (handleIndex (wordHandle w))).gen ∧
        s.hub.placed (accepts p) (handleIndex (wordHandle w)) = true then
      ∃ reply, Takes i s reply (fun _ => True) ∧ reply.result ≠ .badHandle
    else Refused i s .badHandle

/-- R178, R180: a request that passes its session check, and its handle check where it names a handle, is refused
BAD_VALUE when its payload is outside its range of lengths, has an unused bit set in any of its words, or is of
another length than the first word of its PARK_OPEN or REPAIR announces; and one that names a handle is so refused
when its payload is empty. -/
def Obligations.MalformedPayloadIsBadValue : Prop :=
  ∀ (i : Instr) (s : State) (p : PortId) (r : Request), requestOf i = some (p, r) → Admitted i s →
    sessionRefusal r.kind (s.hub.port p).state = none →
    (∀ accepts, r.kind.accepts = some accepts → ∀ w ∈ r.payload.head?,
      (s.hub.find (accepts p) (wordHandle w)).isSome = true) →
    r.kind.Misformed r.payload → Refused i s .badValue

/-! ### Sessions -/

/-- R129, R130: JOIN begins a session, refused in the order of R129. R138: SUBSCRIBE replaces the mask and nothing
else. -/
def Obligations.JoinAndSubscribeSetTheSession : Prop :=
  (∀ (s : State) (p : PortId) (tag : Tag) (t : Settings), t.lease < 65536 → t.grace < 65536 →
     Admitted (.join p tag (joinWords t)) s →
     if s.hub.online p = true then Refused (.join p tag (joinWords t)) s .alreadyJoined
     else if ¬ (10 ≤ t.lease ∧ t.lease ≤ 60000) ∨ ¬ (t.grace = 0 ∨ 10 ≤ t.grace ∧ t.grace ≤ 60000) then
       Refused (.join p tag (joinWords t)) s .badValue
     else
       let g := s.hub.updPort p
         (fun x => { x with state := .online t.lease, epoch := x.epoch + 1, settings := some t })
       Takes (.join p tag (joinWords t)) s
         (.okWith (halfWord ((s.hub.port p).epoch + 1) :: g.capability)) (fun h => h = g)) ∧
  (∀ (s : State) (p : PortId) (tag : Tag) (m : ClassSet) (t : Settings),
     Admitted (.subscribe p tag [maskWord m 0]) s → s.hub.online p = true → (s.hub.port p).settings = some t →
     Takes (.subscribe p tag [maskWord m 0]) s (.bare .ok) (fun g =>
       g.port p = { s.hub.port p with settings := some { t with mask := m } } ∧
       s.hub.SameBeyond g { ports := (· = p) }))

/-- R131: the epoch of a port is 0 after hub reset, and changes only at a JOIN of that port, by one, modulo 65536. -/
def Obligations.EpochChangesOnlyAtJoin : Prop :=
  (∀ p, (State.reset.hub.port p).epoch = 0) ∧
  ∀ (i : Instr) (s t : State) (p : PortId), exec i s = .next t → i ≠ .hubReset →
    (t.hub.port p).epoch = (s.hub.port p).epoch ∨
      (t.hub.port p).epoch = (s.hub.port p).epoch + 1 ∧ ∃ tag ws, i = .join p tag ws

/-- R134, R135: LEAVE. A notice pending in the latch is cancelled to its requester, the port is OFFLINE, its notice
queue is empty, and (by `Takes`) its replay cache is empty. -/
def Obligations.LeaveEndsTheSession : Prop :=
  ∀ (s : State) (p : PortId) (tag : Tag), Admitted (.leave p tag []) s → s.hub.online p = true →
    let x := s.hub.port p
    if x.hold = [] ∧ x.stack = [] ∧ x.filling = [] ∧ x.claim = .none ∧ x.latch.isServing = false then
      Takes (.leave p tag []) s (.bare .ok) (fun g =>
        g.port p = { x with state := .offline, latch := .clear, notices := [] } ∧
        (∀ q, q ≠ p → g.port q = (s.hub.port q).told
          (match x.latch with
          | .pending n _ => if n.requester = q then [.preemptCancelled p n.cls] else []
          | _ => [])) ∧
        s.hub.SameBeyond g { ports := fun _ => True })
    else Refused (.leave p tag []) s .busyHolding

/-- R133, R136, R137, R162, R36: the five requests that read, RENEW, STATUS, HUB_INFO, ISOLATION_LIST and CLASS_GET,
change nothing behind the Host Ports and answer what they read. That CLASS_GET codes enabled as 1 and disabled as 0 is
the model's choice (notes/assumptions/11.md). -/
def Obligations.ReadingRequestsChangeNothing : Prop :=
  (∀ (s : State) (p : PortId) (tag : Tag), Admitted (.renew p tag []) s → s.hub.online p = true →
    Takes (.renew p tag []) s (.okWith [halfWord (s.hub.port p).epoch]) (fun g => g = s.hub)) ∧
  (∀ (s : State) (p : PortId) (tag : Tag), Admitted (.status p tag []) s → (s.hub.port p).state ≠ .offline →
    Takes (.status p tag []) s (.okWith (s.hub.statusWords p)) (fun g => g = s.hub)) ∧
  (∀ (s : State) (p : PortId) (tag : Tag), Admitted (.hubInfo p tag []) s →
    Takes (.hubInfo p tag []) s (.okWith s.hub.capability) (fun g => g = s.hub)) ∧
  (∀ (s : State) (p : PortId) (tag : Tag), Admitted (.isolationList p tag []) s → s.hub.online p = true →
    Takes (.isolationList p tag []) s
      (.okWith (valueWord s.hub.isolation.length :: pairWords (s.hub.isolation.map s.hub.handle)))
      (fun g => g = s.hub)) ∧
  ∀ (s : State) (p : PortId) (tag : Tag) (k : ClassId), let i : Instr := .classGet p tag [threeWord (BitVec.ofFin k)]
    Admitted i s → s.hub.online p = true →
    let band (b : Prio) : Nat := (s.hub.cls k).queue.countP (fun j => s.hub.effOf j == b)
    Takes i s
      (.okWith ([k.val, (s.hub.cls k).enabled.toNat, (s.hub.cls k).limit, (s.hub.cls k).aging,
        (s.hub.cls k).population, (s.hub.cls k).queue.length, band 3, band 2, band 1, band 0].map valueWord))
      (fun g => g = s.hub)

/-- R183: the STATUS response gives back every item of the port's own view, at the bits of the table. -/
def Obligations.StatusWordsGiveBackThePort : Prop :=
  ∀ (h : Hub) (p : PortId) (t : Settings), let x := h.port p
    x.Bounded → x.settings = some t → t.lease < 65536 → t.grace < 65536 →
    ∃ w0 w1 w2 w3 w4 w5 w6 w7 heldWords stackWords fillWords,
      h.statusWords p = [w0, w1, w2, w3, w4, w5, w6, w7] ++ heldWords ++ stackWords ++ fillWords ∧
      bits w0 0 16 = x.epoch ∧
      bits w0 16 2 = (match x.state with | .offline => 0 | .online _ => 1 | .fenced => 2) ∧
      (bits w0 20 5).toNat = x.notices.length ∧
      (bits w1 0 16).toNat = t.lease ∧ (bits w1 16 16).toNat = t.grace ∧
      bits w2 0 8 = t.mask ∧ (bits w2 8 3).toNat = x.hold.length ∧ (bits w2 12 4).toNat = x.stack.length ∧
      (bits w2 16 2).toNat = x.filling.length ∧
      (∀ n, x.state = .online n → n < 65536 → bit w3 16 = true ∧ (bits w3 0 16).toNat = n) ∧
      (x.state.isOnline = false → w3 = 0) ∧
      (∀ m n, x.claim = .waiting m n → n < 65536 →
        bits w4 0 2 = 1 ∧ bits w4 8 8 = m ∧ (bits w5 0 16).toNat = n) ∧
      (∀ hd, x.claim = .granted hd → w4 = 2 ∧ bits w5 0 16 = hd) ∧
      (x.claim = .expired → w4 = 3 ∧ w5 = 0) ∧ (x.claim = .none → w4 = 0 ∧ w5 = 0) ∧
      (x.latch = .clear → w6 = 0 ∧ w7 = 0) ∧
      (∀ n g, x.latch = .pending n g → bits w6 0 2 = 1 ∧ bit w6 2 = false ∧ bit w6 11 = true ∧
        (bits w6 12 2).toNat = n.requester.val ∧ (bits w6 16 3).toNat = n.cls.val ∧ bit w7 16 = g.isSome ∧
        ∀ k ∈ g, k < 65536 → (bits w7 0 16).toNat = k) ∧
      (∀ v, x.latch = .serving v → bits w6 0 2 = 2 ∧ bit w6 2 = true ∧ bit w6 11 = false ∧
        (bits w6 4 2).toNat = v.requester.val ∧ (bits w6 8 3).toNat = v.cls.val ∧ w7 = 0) ∧
      (∀ v n, x.latch = .servingPending v n → bits w6 0 2 = 3 ∧ bit w6 2 = true ∧ bit w6 11 = true ∧
        (bits w6 4 2).toNat = v.requester.val ∧ (bits w6 8 3).toNat = v.cls.val ∧
        (bits w6 12 2).toNat = n.requester.val ∧ (bits w6 16 3).toNat = n.cls.val ∧ w7 = 0) ∧
      heldWords.map (fun w => bits w 0 16) = x.hold.map h.handle ∧
      stackWords.map (fun w => (bits w 0 16, bit w 16)) =
        x.stack.map (fun e => (h.handle e.frame, e.tag == .preempt)) ∧
      fillWords.map (fun w => (bits w 0 16, bits w 16 7)) =
        x.filling.map (fun i => (h.handle i, BitVec.ofNat 7 (h.fillOf i)))

/-- R181, R4: the frame header record gives back every field of the frame, at the bits and with the codes of the table;
so do the outcome word and the notice word; and a handle is its generation × 64 + its index. -/
def Obligations.HeaderRecordGivesBackTheFrame : Prop :=
  (∀ (hd : BitVec 16) (c : Context) (e : Prio), c.len < 128 →
    ∃ w0 w1 w2 w3 w4, headerRecord hd c e = [w0, w1, w2, w3, w4] ∧
      w0 &&& 0xF0880000 = 0 ∧ w1 &&& 0xF8080000 = 0 ∧ w2 &&& 0xFFC00000 = 0 ∧
      bits w0 0 16 = hd ∧
      bits w0 16 3 = (match c.place with
        | .filling _ _ => 1 | .queued _ _ => 2 | .held _ _ => 3 | .stacked _ => 4 | .isolated _ => 5) ∧
      (bits w0 20 3).toNat = c.control.cls.val ∧ (bits w0 24 2).toNat = c.control.base.val ∧
      (bits w0 26 2).toNat = e.val ∧
      bits w1 0 4 = c.control.affinity ∧ (bits w1 4 2).toNat = c.origin.val ∧
      (bits w1 6 3).toNat = (match c.place with
        | .filling o _ => 4 + o.val | .held o _ => 4 + o.val | .stacked o => 4 + o.val
        | .queued _ _ => 0 | .isolated _ => 0) ∧
      bits w1 9 3 = (match c.cause with
        | none => 0 | some .parked => 1 | some .returned => 2 | some .reclaimed => 3 | some .repaired => 4) ∧
      bits w1 12 2 = (match c.control.resume with | .next => 0 | .wait => 1 | .retry => 2) ∧
      bit w1 14 = c.control.waitMarker ∧
      bits w1 15 2 = (match c.place with | .held _ false => 1 | .held _ true => 2 | _ => 0) ∧
      bits w1 17 2 = (match c.place with
        | .isolated .checkMismatch => 1 | .isolated .memoryError => 2 | _ => 0) ∧
      (bits w1 20 7).toNat = c.len ∧
      bits w2 0 16 = c.check ∧ bit w2 16 = c.control.trap.isSome ∧
      (c.control.trap = none → bits w2 17 5 = 0 ∧ w3 = 0 ∧ w4 = 0) ∧
      ∀ t ∈ c.control.trap, w3 = t.address ∧
        bits w2 18 3 = (match t.width with | .one => 1 | .two => 2 | .four => 4) ∧
        (t.access = .read → bit w2 17 = false ∧ bit w2 21 = false ∧ w4 = 0) ∧
        ∀ v, t.access = .write v → bit w2 17 = true ∧ bit w2 21 = true ∧ w4 = v) ∧
  (∀ (hd : BitVec 16) (o : FrameOutcome), let w := outcomeWord hd o
    bits w 0 16 = hd ∧ bits w 20 12 = 0 ∧
    match o with
    | .queued => bits w 16 2 = 0 ∧ bits w 18 2 = 0
    | .granted p => bits w 16 2 = 1 ∧ (bits w 18 2).toNat = p.val
    | .isolated r => bits w 16 2 = 2 ∧ bits w 18 2 = match r with | .checkMismatch => 1 | .memoryError => 2) ∧
  (∀ n : Urgent, let w := noticeWord n
    (bits w 0 2).toNat = n.requester.val ∧ (bits w 8 3).toNat = n.cls.val ∧ w &&& 0xFFFFF8FC = 0) ∧
  ∀ (g : BitVec 10) (j : FrameId), (handleOf g j).toNat = g.toNat * 64 + j.val

/-! ### Parking -/

/-- R40: PARK_OPEN is refused with the first condition of the table that holds, and then changes nothing. R45:
PARK_WRITE of a frame the port is filling is refused in the order of its table. -/
def Obligations.ParkRequestsAreRefusedInOrder : Prop :=
  (∀ (s : State) (p : PortId) (tag : Tag) (a : ParkOpenArgs), a.Fits →
     let i : Instr := .parkOpen p tag (parkOpenWords a)
     let k := s.hub.cls a.control.cls
     Admitted i s → s.hub.online p = true →
     (¬ a.control.Valid k.enabled → Refused i s .invalid) ∧
     (a.control.Valid k.enabled →
       (¬ (1 ≤ a.len ∧ a.len ≤ 64) → Refused i s .badValue) ∧
       (1 ≤ a.len ∧ a.len ≤ 64 →
         (2 ≤ (s.hub.port p).filling.length → Refused i s .fillLimit) ∧
         ((s.hub.port p).filling.length < 2 →
           (k.population = k.limit → Refused i s .classFull) ∧
           (k.population < k.limit →
             ((∀ j, s.hub.ctx j ≠ none) → Refused i s .noFrame) ∧
             ((∃ j, s.hub.ctx j = none) → s.hub.freeBlocks.length < (a.len + 7) / 8 → Refused i s .noSpace)))))) ∧
  (∀ (s : State) (p : PortId) (tag : Tag) (j : FrameId) (c : Context) (n off : Nat) (ws : List Word),
     let i : Instr := .parkWrite p tag (s.hub.handleWord j (rangeHalf off 0) :: ws)
     Admitted i s → s.hub.online p = true → s.hub.ctx j = some c → c.place = .filling p n → off < 64 →
     (ws.length < 1 ∨ 16 < ws.length → Refused i s .badValue) ∧
     (1 ≤ ws.length → ws.length ≤ 16 →
       (off ≠ n → Takes i s { result := .outOfOrder, payload := [valueWord n] } (fun g => g = s.hub)) ∧
       (off = n → c.len < off + ws.length → Refused i s .badValue)))

/-- R42, R43, and the choice of frame and blocks of R17: a PARK_OPEN that passes R40 takes the lowest-numbered FREE
frame and the ceil(length ÷ 8) lowest-numbered free blocks. -/
def Obligations.ParkOpenTakesTheLowestFrameAndBlocks : Prop :=
  ∀ (s : State) (p : PortId) (tag : Tag) (a : ParkOpenArgs) (j : FrameId) (bs : List BlockId), a.Fits →
    let i : Instr := .parkOpen p tag (parkOpenWords a)
    let k := a.control.cls
    Admitted i s → s.hub.online p = true → a.control.Valid (s.hub.cls k).enabled → 1 ≤ a.len → a.len ≤ 64 →
    (s.hub.port p).filling.length < 2 → (s.hub.cls k).population < (s.hub.cls k).limit →
    s.hub.ctx j = none → (∀ l, l < j → s.hub.ctx l ≠ none) →
    bs.length = (a.len + 7) / 8 → bs.Pairwise (· < ·) → (∀ b ∈ bs, (s.hub.block b).free = true) →
    (∀ b, (s.hub.block b).free = true → b ∉ bs → ∀ b' ∈ bs, b' < b) →
    ∃ control : Control, control.raw = a.control ∧
    Takes i s (.okWith [halfWord (s.hub.handle j)]) (fun g =>
      g.frame j = { gen := (s.hub.frame j).gen,
                    ctx := some { control := control, origin := p, cause := none, len := a.len, blocks := bs,
                                  check := a.check, place := .filling p 0 } } ∧
      g.port p = { s.hub.port p with filling := (s.hub.port p).filling ++ [j] } ∧
      g.cls k = { s.hub.cls k with population := (s.hub.cls k).population + 1 } ∧
      (∀ b ∈ bs, g.block b = { s.hub.block b with free := false }) ∧
      s.hub.SameBeyond g
        { frames := (· = j), ports := (· = p), classes := (· = k), blocks := (· ∈ bs) })

/-- R46, R71, R165, with the damage rule of R19: PARK_WRITE, WRITE_IMAGE and ISOLATION_WRITE store their words at the
places R16 gives. PARK_WRITE moves the fill pointer, WRITE_IMAGE sets the modified mark, and ISOLATION_WRITE changes no
field. A write past the image's end is refused BAD_VALUE by the last two. -/
def Obligations.ImageWritesStoreTheirWords : Prop :=
  ∀ (s : State) (p : PortId) (tag : Tag) (j : FrameId) (c : Context) (off : Nat) (ws : List Word),
    s.hub.memory.wf → s.hub.online p = true → s.hub.ctx j = some c → c.BlocksLegal → c.len ≤ 64 → off < 64 →
    1 ≤ ws.length → ws.length ≤ 16 →
    let words := s.hub.handleWord j (rangeHalf off 0) :: ws
    let stored (g : Hub) : Prop := s.hub.Stores g c off ws ∧
      s.hub.SameBeyond g { frames := (· = j), blocks := (· ∈ c.blocks), words := fun _ => True }
    (Admitted (.parkWrite p tag words) s → c.place = .filling p off → off + ws.length ≤ c.len →
      Takes (.parkWrite p tag words) s (.okWith [valueWord (off + ws.length)]) (fun g => stored g ∧
        g.frame j = { s.hub.frame j with ctx := some { c with place := .filling p (off + ws.length) } })) ∧
    (Admitted (.writeImage p tag words) s → ∀ m, c.place = .held p m →
      if off + ws.length ≤ c.len then
        Takes (.writeImage p tag words) s (.bare .ok) (fun g => stored g ∧
          g.frame j = { s.hub.frame j with ctx := some { c with place := .held p true } })
      else Refused (.writeImage p tag words) s .badValue) ∧
    (Admitted (.isolationWrite p tag words) s → ∀ r, c.place = .isolated r →
      if off + ws.length ≤ c.len then
        Takes (.isolationWrite p tag words) s (.bare .ok) (fun g => stored g ∧ g.frame j = s.hub.frame j)
      else Refused (.isolationWrite p tag words) s .badValue)

/-- R48: a PARK_CLOSE below the image length is refused INCOMPLETE with the fill pointer. R49, R77, R20, R21: a
PARK_CLOSE of a full image, or a REPARK, whose check fails isolates the frame for the reason found, REPARK with its
new check in place. -/
def Obligations.FailedCheckIsolatesTheFrame : Prop :=
  ∀ (s : State) (p : PortId) (tag : Tag) (j : FrameId) (c : Context) (check : BitVec 16) (r : IsoReason),
    s.hub.online p = true → s.hub.ctx j = some c →
    let isolates (d : Context) (g : Hub) : Prop := s.hub.Isolates g j d r ∧
      s.hub.SameBeyond g { frames := (· = j), ports := fun _ => True, isolation := True }
    (∀ n, Admitted (.parkClose p tag [s.hub.handleWord j 0]) s → c.place = .filling p n → n < c.len →
      Takes (.parkClose p tag [s.hub.handleWord j 0]) s { result := .incomplete, payload := [valueWord n] }
        (fun g => g = s.hub)) ∧
    (Admitted (.parkClose p tag [s.hub.handleWord j 0]) s → c.place = .filling p c.len →
      s.hub.CheckFinds c (some r) →
      Takes (.parkClose p tag [s.hub.handleWord j 0]) s
        (.okWith [outcomeWord (s.hub.handle j) (.isolated r)]) (isolates c)) ∧
    (∀ m, Admitted (.repark p tag [s.hub.handleWord j check]) s → c.place = .held p m →
      s.hub.CheckFinds { c with check := check } (some r) →
      Takes (.repark p tag [s.hub.handleWord j check]) s
        (.okWith [outcomeWord (s.hub.handle j) (.isolated r)]) (isolates { c with check := check }))

/-- R50, R51, R77, R78: a PARK_CLOSE of a full image, or a REPARK, whose check matches, makes the frame available with
cause PARKED: the oldest waiting claim that takes it receives it, and otherwise it is inserted at the tail of its base
band. -/
def Obligations.MatchingCheckMakesTheFrameAvailable : Prop :=
  ∀ (s : State) (p : PortId) (tag : Tag) (j : FrameId) (c : Context) (check : BitVec 16),
    s.hub.QueuesBanded → s.hub.online p = true → s.hub.ctx j = some c →
    (Admitted (.parkClose p tag [s.hub.handleWord j 0]) s → c.place = .filling p c.len →
      s.hub.CheckFinds c none →
      MakesAvailable (.parkClose p tag [s.hub.handleWord j 0]) s j c .parked s.hub.isolation) ∧
    ∀ m, Admitted (.repark p tag [s.hub.handleWord j check]) s → c.place = .held p m →
      s.hub.CheckFinds { c with check := check } none →
      MakesAvailable (.repark p tag [s.hub.handleWord j check]) s j { c with check := check } .parked s.hub.isolation

/-- R53, R79, R169, R18: PARK_ABORT, RETIRE and DISCARD return their frame to FREE, and it leaves its filling list,
hold set or the Isolation List. -/
def Obligations.FreeingRequestsReturnTheFrameToFree : Prop :=
  ∀ (s : State) (p : PortId) (tag : Tag) (j : FrameId) (c : Context), s.hub.online p = true → s.hub.ctx j = some c →
    let w := s.hub.handleWord j 0
    let frees (g : Hub) (isolation : Prop) : Prop := s.hub.Frees g j c ∧ (∀ q, g.port q = s.hub.portWithout j c q) ∧
      s.hub.SameBeyond g { frames := (· = j), ports := fun _ => True, classes := (· = c.control.cls),
                           blocks := (· ∈ c.blocks), isolation := isolation }
    (∀ n, Admitted (.parkAbort p tag [w]) s → c.place = .filling p n →
      Takes (.parkAbort p tag [w]) s (.bare .ok) (fun g => frees g False)) ∧
    (∀ m, Admitted (.retire p tag [w]) s → c.place = .held p m →
      Takes (.retire p tag [w]) s (.bare .ok) (fun g => frees g False)) ∧
    ∀ r, Admitted (.discard p tag [w]) s → c.place = .isolated r →
      Takes (.discard p tag [w]) s (.bare .ok) (fun g => frees g True ∧ g.isolation = s.hub.isolation.erase j)

/-! ### Claiming and holding -/

/-- R61 to R64, R28: CLAIM. In a hub whose frames are filed, it is refused in the order of R61, answers EMPTY when no
frame is eligible, and else takes the best eligible frame. -/
def Obligations.ClaimTakesTheBestEligibleFrame : Prop :=
  ∀ (s : State) (p : PortId) (tag : Tag) (m : ClassSet), s.hub.Filed → s.hub.online p = true →
    let i : Instr := .claim p tag [maskWord m 0]
    Admitted i s →
    if m = 0 then Refused i s .badValue
    else if 4 ≤ (s.hub.port p).holdCount then Refused i s .holdFull
    else
      ((∀ j, ¬ s.hub.Eligible p m j) ∧ Refused i s .empty) ∨
      ∃ j c, s.hub.Best p m j ∧ s.hub.ctx j = some c ∧
        Takes i s (.okWith (s.hub.claimAnswer p j c)) (fun g => s.hub.Claims g p j c)

/-- R68 to R70, R20: READ_IMAGE of a frame the port holds or stacks. -/
def Obligations.ReadImageReadsOrIsolates : Prop :=
  ∀ (s : State) (p : PortId) (tag : Tag) (j : FrameId) (c : Context) (off n : Nat), s.hub.online p = true →
    s.hub.ctx j = some c → c.place.isKeptOf p = true → c.BlocksLegal → off < 64 → n < 32 →
    let i : Instr := .readImage p tag [s.hub.handleWord j (rangeHalf off n)]
    let damaged : Prop := ∃ k b, off ≤ k ∧ k < off + n ∧ c.blocks[k / 8]? = some b ∧ (s.hub.block b).damaged = true
    Admitted i s →
    (n < 1 ∨ 16 < n ∨ c.len < off + n → Refused i s .badValue) ∧
    (1 ≤ n → n ≤ 16 → off + n ≤ c.len →
      (damaged →
        Takes i s { result := .memoryError, payload := [halfWord (s.hub.handle j)] } (fun g =>
          s.hub.Isolates g j c .memoryError ∧
          s.hub.SameBeyond g { frames := (· = j), ports := fun _ => True, isolation := True })) ∧
      (¬ damaged → ∃ ws, ws.length = n ∧
        (∀ k v, ws[k]? = some v → ∃ a, c.address (off + k) = some a ∧ v = s.hub.memory.read a) ∧
        Takes i s (.okWith ws) (fun g => g = s.hub)))

/-- R73, R74: EDIT of a frame the port holds or stacks, refused in the order of R73. -/
def Obligations.EditSetsOneControlField : Prop :=
  ∀ (s : State) (p : PortId) (tag : Tag) (j : FrameId) (c : Context) (f : FieldChange), s.hub.online p = true →
    s.hub.ctx j = some c → c.place.isKeptOf p = true →
    let i : Instr := .edit p tag [s.hub.handleWord j 0, changeWord f]
    let changed := FieldChange.setIn c.control.raw f
    Admitted i s →
    (4 ≤ f.selector.toNat ∧ f.selector.toNat ≤ 9 → Refused i s .readOnly) ∧
    (f.selector.toNat = 0 ∨ 10 ≤ f.selector.toNat → Refused i s .badValue) ∧
    (1 ≤ f.selector.toNat ∧ f.selector.toNat ≤ 3 →
      (¬ changed.Valid (s.hub.cls c.control.cls).enabled → Refused i s .invalid) ∧
      (changed.Valid (s.hub.cls c.control.cls).enabled → ∃ control : Control, control.raw = changed ∧
        Takes i s (.okWith (headerRecord (s.hub.handle j) { c with control := control } control.base)) (fun g =>
          g.frame j = { s.hub.frame j with ctx := some { c with control := control } } ∧
          s.hub.SameBeyond g { frames := (· = j) })))

/-- R75, R76, R90: RETURN. It is refused MODIFIED of a written frame. Else it passes over the returning port's own
claim, and goes to another port's claim or to the head of its base band, in which case a claim of the returning port
that the frame matches ends as EXPIRED. -/
def Obligations.ReturnGivesTheFrameBack : Prop :=
  ∀ (s : State) (p : PortId) (tag : Tag) (j : FrameId) (c : Context) (m : Bool), s.hub.QueuesBanded →
    s.hub.online p = true → s.hub.ctx j = some c → c.place = .held p m →
    let i : Instr := .returnFrame p tag [s.hub.handleWord j 0]
    let within (g : Hub) : Prop :=
      s.hub.SameBeyond g { frames := (· = j), ports := fun _ => True, classes := (· = c.control.cls),
                           waitList := True }
    Admitted i s →
    if m = true then Refused i s .modified
    else
      (∃ q, q ≠ p ∧ Takes i s (.okWith [outcomeWord (s.hub.handle j) (.granted q)])
        (fun g => s.hub.Grants g j c .returned (some p) q ∧ within g)) ∨
      Takes i s (.okWith [outcomeWord (s.hub.handle j) .queued]) (fun g =>
        s.hub.Inserts g j c .returned (some p) (if s.hub.claimTakes c none p = true then some p else none) ∧
        within g)

/-! ### Waiting claims -/

/-- R84 to R86: CLAIM_WAIT. In a hub whose frames are filed, it is refused in the order of R84, takes the best eligible
frame at once, or waits at the tail of the Wait List. -/
def Obligations.ClaimWaitTakesAtOnceOrWaits : Prop :=
  ∀ (s : State) (p : PortId) (tag : Tag) (m : ClassSet) (timeout : Nat), s.hub.Filed → s.hub.online p = true →
    timeout < 65536 →
    let i : Instr := .claimWait p tag [maskWord m (BitVec.ofNat 16 timeout)]
    let x := s.hub.port p
    Admitted i s →
    if m = 0 ∨ timeout < 1 ∨ 60000 < timeout then Refused i s .badValue
    else if 4 ≤ x.holdCount then Refused i s .holdFull
    else if x.claim ≠ .none then Refused i s .waitExists
    else
      (∃ j c, s.hub.Best p m j ∧ s.hub.ctx j = some c ∧
        Takes i s { result := .granted, payload := s.hub.claimAnswer p j c } (fun g => s.hub.Claims g p j c)) ∨
      (∀ j, ¬ s.hub.Eligible p m j) ∧ Takes i s (.bare .waiting) (fun g =>
        g.port p = { x with claim := .waiting m timeout } ∧ g.waitList = s.hub.waitList ++ [p] ∧
        s.hub.SameBeyond g { ports := (· = p), waitList := True })

/-- R93, R94: CLAIM_RESULT and CLAIM_CANCEL answer by the state of the claim record, and clear a result they read.
WAITING carries the remaining time of 1 to 60000 ms; a CLAIM_RESULT that finds a wait timer at 0 is in
`TickFirstTakesWhatIsDue` (notes/assumptions/3.md). A CLAIM_CANCEL taken before the expiry of such a timer is answered
CANCELLED (R92). -/
def Obligations.ClaimResultAndCancelAnswerByRecord : Prop :=
  ∀ (s : State) (p : PortId) (tag : Tag), s.hub.online p = true →
    let x := s.hub.port p
    let cleared (g : Hub) : Prop :=
      g.port p = { x with claim := .none } ∧ s.hub.SameBeyond g { ports := (· = p) }
    (Admitted (.claimResult p tag []) s →
      match x.claim with
      | .none => Refused (.claimResult p tag []) s .none
      | .waiting _ n => 1 ≤ n →
          Takes (.claimResult p tag []) s { result := .waiting, payload := [valueWord n] } (fun g => g = s.hub)
      | .granted hd => Takes (.claimResult p tag []) s { result := .granted, payload := [halfWord hd] } cleared
      | .expired => Takes (.claimResult p tag []) s (.bare .expired) cleared) ∧
    (Admitted (.claimCancel p tag []) s →
      match x.claim with
      | .none => Refused (.claimCancel p tag []) s .none
      | .waiting _ _ => Takes (.claimCancel p tag []) s (.bare .cancelled) (fun g =>
          g.port p = { x with claim := .none } ∧ g.waitList = s.hub.waitList.erase p ∧
          s.hub.SameBeyond g { ports := (· = p), waitList := True })
      | .granted hd => Takes (.claimCancel p tag []) s { result := .granted, payload := [halfWord hd] } cleared
      | .expired => Takes (.claimCancel p tag []) s (.bare .expired) cleared)

/-! ### Suspension stacks -/

/-- R98, R99: SUSPEND of a held frame. R100, R101: RESUME_TOP, refused in the order of R100; else the top frame joins
the end of the hold set. -/
def Obligations.StackIsPushedAndPopped : Prop :=
  (∀ (s : State) (p : PortId) (tag : Tag) (j : FrameId) (c : Context) (m : Bool), s.hub.online p = true →
     s.hub.ctx j = some c → c.place = .held p m →
     let i : Instr := .suspend p tag [s.hub.handleWord j 0]
     let x := s.hub.port p
     Admitted i s →
     (8 ≤ x.stack.length → Refused i s .stackFull) ∧
     (x.stack.length < 8 → Takes i s (.okWith [valueWord (x.stack.length + 1)]) (fun g =>
       g.frame j = { s.hub.frame j with ctx := some { c with place := .stacked p } } ∧
       g.port p = { x with hold := x.hold.erase j, stack := { frame := j, tag := .voluntary } :: x.stack } ∧
       s.hub.SameBeyond g { frames := (· = j), ports := (· = p) }))) ∧
  (∀ (s : State) (p : PortId) (tag : Tag), s.hub.online p = true →
     let i : Instr := .resumeTop p tag []
     let x := s.hub.port p
     Admitted i s →
     (x.stack = [] → Refused i s .stackEmpty) ∧
     ∀ e rest, x.stack = e :: rest →
       (e.tag = .preempt → Refused i s .preemptLevel) ∧
       (e.tag = .voluntary → 4 ≤ x.holdCount → Refused i s .holdFull) ∧
       (e.tag = .voluntary → x.holdCount < 4 → ∀ c, s.hub.ctx e.frame = some c → c.place = .stacked p →
         Takes i s (.okWith (headerRecord (s.hub.handle e.frame) { c with place := .held p false } c.control.base))
           (fun g =>
             g.frame e.frame = { s.hub.frame e.frame with ctx := some { c with place := .held p false } } ∧
             g.port p = { x with hold := x.hold ++ [e.frame], stack := rest } ∧
             s.hub.SameBeyond g { frames := (· = e.frame), ports := (· = p) })))

/-! ### Preemption -/

/-- R109, R110: PREEMPT, refused in the order of R109, and else answered by the target's latch. -/
def Obligations.PreemptIsAnsweredByTheTargetLatch : Prop :=
  ∀ (s : State) (p target : PortId) (tag : Tag) (k : ClassId), s.hub.online p = true →
    let i : Instr := .preempt p tag [preemptWord target k]
    let x := s.hub.port target
    let notice : Urgent := { requester := p, cls := k }
    Admitted i s →
    if target = p then Refused i s .self
    else if s.hub.online target = false then Refused i s .targetOffline
    else if (s.hub.cls k).enabled = false then Refused i s .classDisabled
    else
      match x.latch with
      | .clear => Takes i s (.bare .posted) (fun g =>
          g.port target =
            { x with latch := .pending notice (if x.gracePeriod = 0 then none else some x.gracePeriod) } ∧
          s.hub.SameBeyond g { ports := (· = target) })
      | .pending _ _ => Refused i s .alreadyPending
      | .serving v => Takes i s (.bare .latched) (fun g =>
          g.port target = { x with latch := .servingPending v notice } ∧
          s.hub.SameBeyond g { ports := (· = target) })
      | .servingPending _ _ => Refused i s .latchFull

/-- R115 to R118: TAKE_PREEMPT in a hub whose frames are filed: refused NOT_PENDING or STACK_FULL; else the hold set is
saved onto the stack, oldest first, the latch serves, the requester is told, and the best eligible frame of the class
is claimed into the emptied hold set. -/
def Obligations.TakePreemptSavesAndClaims : Prop :=
  ∀ (s : State) (p : PortId) (tag : Tag), s.hub.Filed → s.hub.online p = true →
    let i : Instr := .takePreempt p tag []
    let x := s.hub.port p
    let saved : List StackEntry := x.hold.reverse.map (fun j => { frame := j, tag := .preempt })
    Admitted i s →
    ((∀ n g, x.latch ≠ .pending n g) → Refused i s .notPending) ∧
    ∀ n grace, x.latch = .pending n grace →
      (8 < x.stack.length + x.hold.length → Refused i s .stackFull) ∧
      (n.requester ≠ p → x.stack.length + x.hold.length ≤ 8 →
        let m : ClassSet := 1#8 <<< n.cls.val
        let common (g : Hub) (taken : List FrameId) : Prop :=
          g.port p = { x with hold := taken, stack := saved ++ x.stack, latch := .serving n } ∧
          g.port n.requester = (s.hub.port n.requester).told [.preemptTaken p n.cls] ∧
          (∀ j ∈ x.hold, ∀ c ∈ s.hub.ctx j,
            g.frame j = { s.hub.frame j with ctx := some { c with place := .stacked p } }) ∧
          s.hub.SameBeyond g { frames := fun j => j ∈ x.hold ∨ j ∈ taken,
                               ports := fun q => q = p ∨ q = n.requester,
                               classes := fun k => k = n.cls ∧ taken ≠ [] }
        ((∀ j, ¬ s.hub.Eligible p m j) ∧
          Takes i s (.okWith [noticeWord n, valueWord x.hold.length, 0]) (fun g => common g [])) ∨
        ∃ j c, s.hub.Best p m j ∧ s.hub.ctx j = some c ∧
          Takes i s (.okWith (noticeWord n :: valueWord x.hold.length :: s.hub.claimAnswer p j c)) (fun g =>
            common g [j] ∧
            g.frame j = { s.hub.frame j with ctx := some { c with place := .held p false } } ∧
            g.cls n.cls = { s.hub.cls n.cls with queue := (s.hub.cls n.cls).queue.erase j }))

/-- R120: END_PREEMPT is refused in the order of the table, and then changes nothing. -/
def Obligations.EndPreemptIsRefusedInOrder : Prop :=
  ∀ (s : State) (p : PortId) (tag : Tag), s.hub.online p = true →
    let i : Instr := .endPreempt p tag []
    let x := s.hub.port p
    let isPreempt (e : StackEntry) : Bool := e.tag == .preempt
    Admitted i s →
    (x.latch.isServing = false → Refused i s .notServing) ∧
    (x.latch.isServing = true →
      (x.hold ≠ [] → Refused i s .holding) ∧
      (x.hold = [] →
        let nested : Prop := ∃ e rest, x.stack = e :: rest ∧ e.tag = .voluntary ∧ ∃ f ∈ rest, isPreempt f = true
        (nested → Refused i s .nested) ∧
        (¬ nested → x.claim.isWaiting = true → (x.stack.filter isPreempt).length = 4 →
          (∀ e ∈ x.stack, isPreempt e = true → ∃ c, s.hub.ctx e.frame = some c ∧ c.allows p = true) →
          Refused i s .holdFull)))

/-- R121 to R123: an END_PREEMPT that passes R120, in a hub whose frames are filed. With `group` the frames of the
PREEMPT entries from the bottom of the stack upward: those whose affinity includes the port are the new hold set, in
that order; the others go, with cause RETURNED, to another port's waiting claim or to their queue; the entries below
stay; PREEMPT_DONE is posted; and the latch becomes CLEAR, or PENDING with the latched notice and a fresh grace timer.
R27, R37, R87, R89: where the queues stand in bands, the group is dealt with one frame after another, each diverted
one going to the oldest claim that takes it or to the head of its base band, with the CLASS_READY of its insertion;
PREEMPT_DONE follows all of them. -/
def Obligations.EndPreemptRestoresAndDiverts : Prop :=
  ∀ (s : State) (p : PortId) (tag : Tag) (v : Urgent), s.hub.Filed → s.hub.WaitListTrue → s.hub.online p = true →
    let i : Instr := .endPreempt p tag []
    let x := s.hub.port p
    let allowed (j : FrameId) : Bool := (s.hub.ctx j).any (fun c => c.allows p)
    let group : List FrameId := ((x.stack.filter (fun e => e.tag == .preempt)).map StackEntry.frame).reverse
    let kept := group.filter allowed
    let out := group.filter (fun j => !allowed j)
    let latch : Latch :=
      match x.latch with
      | .servingPending _ n => .pending n (if x.gracePeriod = 0 then none else some x.gracePeriod)
      | _ => .clear
    Admitted i s → (x.latch = .serving v ∨ ∃ n, x.latch = .servingPending v n) → v.requester ≠ p → x.hold = [] →
    (∀ e rest, x.stack = e :: rest → e.tag = .preempt ∨ group = []) →
    (x.claim.isWaiting = true → kept.length < 4) → group.length ≤ 4 →
    ∃ outcomes : List FrameOutcome, outcomes.length = out.length ∧
      Takes i s
        (.okWith (noticeWord v :: (0#25 ++ BitVec.ofNat 3 out.length ++ 0#1 ++ BitVec.ofNat 3 kept.length) ::
          (kept.map (fun j => halfWord (s.hub.handle j)) ++
            List.zipWith (fun j o => outcomeWord (s.hub.handle j) o) out outcomes ++
            [if latch.isPending then 1 else 0])))
        (fun g =>
          (∃ more, g.port p =
            { x with hold := kept, stack := x.stack.filter (fun e => e.tag != .preempt), latch := latch,
                     notices := x.notices ++ more }) ∧
          (∀ j ∈ kept, ∀ c ∈ s.hub.ctx j,
            g.frame j = { s.hub.frame j with ctx := some { c with place := .held p false } }) ∧
          (∀ j o, (j, o) ∈ out.zip outcomes → s.hub.MovedOn g j .returned (some p) ∧
            match o with
            | .queued => g.placed Place.isQueued j = true
            | .granted q => g.placed (Place.isHeldOf q) j = true
            | .isolated _ => False) ∧
          (∀ q, q ≠ p → (s.hub.port q).OnlyGains (g.port q) s.hub out) ∧
          (s.hub.online v.requester = true →
            ∃ q, (g.port v.requester).notices = appendNotice q (.preemptDone p v.cls)) ∧
          (∀ k, ∃ q, g.cls k = { s.hub.cls k with queue := q } ∧ (s.hub.cls k).queue.Sublist q) ∧
          g.waitList.Sublist s.hub.waitList ∧
          s.hub.SameBeyond g { frames := (· ∈ group), ports := fun _ => True, classes := fun _ => True,
                               waitList := True } ∧
          (s.hub.QueuesBanded → ∃ m e,
            (m.port p = { x with stack := x.stack.filter (fun e => e.tag != .preempt) } ∧
              s.hub.SameBeyond m { ports := (· = p) }) ∧
            Hub.DealsInTurn p group outcomes m e ∧
            g.port v.requester = (e.port v.requester).told [.preemptDone p v.cls] ∧
            g.port p = { e.port p with latch := latch } ∧
            e.SameBeyond g { ports := fun q => q = p ∨ q = v.requester }))

/-! ### Isolation and repair -/

/-- R163, R164: INSPECT of an isolated frame, from any ONLINE port. -/
def Obligations.InspectReportsTheIsolatedFrame : Prop :=
  ∀ (s : State) (p : PortId) (tag : Tag) (j : FrameId) (c : Context) (r : IsoReason) (off n : Nat),
    s.hub.online p = true → s.hub.ctx j = some c → c.place = .isolated r → off < 64 → n < 32 →
    let i : Instr := .inspect p tag [s.hub.handleWord j (rangeHalf off n)]
    let record (d : Context) : List Word := headerRecord (s.hub.handle j) d c.control.base
    let damaged : Prop := ∃ k b, off ≤ k ∧ k < off + n ∧ c.blocks[k / 8]? = some b ∧ (s.hub.block b).damaged = true
    let d : Context := { c with place := .isolated .memoryError }
    Admitted i s →
    (n = 0 → Takes i s (.okWith (record c)) (fun g => g = s.hub)) ∧
    (16 < n ∨ 1 ≤ n ∧ c.len < off + n → Refused i s .badValue) ∧
    (1 ≤ n → n ≤ 16 → off + n ≤ c.len →
      (damaged → Takes i s (.okWith (record d ++ [1])) (fun g =>
        g.frame j = { s.hub.frame j with ctx := some d } ∧ s.hub.SameBeyond g { frames := (· = j) })) ∧
      (¬ damaged →
        Takes i s (.okWith (record c ++ [0] ++ s.hub.readWords c off n)) (fun g => g = s.hub)))

/-- R166 to R168: REPAIR of an isolated frame, refused in the order of R166; else the changes and the new check stand,
and the image is checked: a failure leaves the frame in the list with the reason found, a match takes it out and makes
it available with cause REPAIRED. -/
def Obligations.RepairMakesItsChangesBeforeTheCheck : Prop :=
  ∀ (s : State) (p : PortId) (tag : Tag) (j : FrameId) (c : Context) (r : IsoReason) (fs : List FieldChange)
    (check : Option (BitVec 16)), s.hub.QueuesBanded → s.hub.online p = true → s.hub.ctx j = some c →
    c.place = .isolated r → fs.length ≤ 3 →
    let upper : BitVec 16 := 0#13 ++ BitVec.ofBool check.isSome ++ BitVec.ofNat 2 fs.length
    let i : Instr := .repair p tag (s.hub.handleWord j upper :: (fs.map changeWord ++ (check.map halfWord).toList))
    let readOnly : Prop := ∃ f ∈ fs, 4 ≤ f.selector.toNat ∧ f.selector.toNat ≤ 9
    let misnamed : Prop := (∃ f ∈ fs, f.selector.toNat = 0 ∨ 10 ≤ f.selector.toNat) ∨ ¬ (fs.map (·.selector)).Nodup
    let changed := fs.foldl FieldChange.setIn c.control.raw
    Admitted i s →
    (readOnly → Refused i s .readOnly) ∧
    (¬ readOnly →
      (misnamed → Refused i s .badValue) ∧
      (¬ misnamed →
        (¬ changed.Valid (s.hub.cls c.control.cls).enabled → Refused i s .invalid) ∧
        (changed.Valid (s.hub.cls c.control.cls).enabled → ∃ control : Control, control.raw = changed ∧
          let d : Context := { c with control := control, check := check.getD c.check }
          (∀ why, s.hub.CheckFinds d (some why) →
            Takes i s
              { result := match why with | .memoryError => .memoryError | .checkMismatch => .checkMismatch,
                payload := [halfWord (s.hub.handle j)] }
              (fun g => g.frame j = { s.hub.frame j with ctx := some { d with place := .isolated why } } ∧
                s.hub.SameBeyond g { frames := (· = j) })) ∧
          (s.hub.CheckFinds d none → MakesAvailable i s j d .repaired (s.hub.isolation.erase j)))))

/-! ### Notices, classes -/

/-- R154, R155: NOTICE_READ from an ONLINE or FENCED port. R150, R151: posting a notice to a port. -/
def Obligations.NoticesArePostedAndRead : Prop :=
  (∀ (s : State) (p : PortId) (tag : Tag) (n : BitVec 3), (s.hub.port p).state ≠ .offline →
     let i : Instr := .noticeRead p tag [threeWord n]
     let x := s.hub.port p
     Admitted i s →
     if n = 0 ∨ 4 < n.toNat then Refused i s .badValue
     else ∃ read left, x.notices = read ++ left ∧ read.length = min n.toNat x.notices.length ∧
       Takes i s (.okWith (valueWord read.length :: valueWord left.length :: read.flatMap Notice.words)) (fun g =>
         g.port p = { x with notices := left } ∧ s.hub.SameBeyond g { ports := (· = p) })) ∧
  (∀ (h : Hub) (p : PortId) (n : Notice),
     let q := (h.port p).notices
     let g := h.post p n
     h.SameBeyond g { ports := (· = p) } ∧
     (h.online p = false → g.port p = h.port p) ∧
     (h.online p = true →
       (q.length ≤ 14 → g.port p = { h.port p with notices := q ++ [n] }) ∧
       (q.length = 15 → g.port p = { h.port p with notices := q ++ [.overflow] }) ∧
       (q.length = 16 → g.port p = h.port p)))

/-- R182: the two words of a notice record give back its kind and arguments, every unused field being zero, for the
counts a fence can report; and the capability record gives back the counts of the part and the state and epoch of
each port. -/
def Obligations.NoticeAndCapabilityWordsGiveBackTheirFields : Prop :=
  (∀ n : Notice, ∃ w v, n.words = [w, v] ∧
    let head (kind : BitVec 8) (port : PortId) (cls : ClassId) (hd : BitVec 16) : Prop :=
      bits w 0 8 = kind ∧ (bits w 8 2).toNat = port.val ∧ (bits w 12 3).toNat = cls.val ∧ bits w 16 16 = hd
    match n with
    | .classReady c => head 1 0 c 0 ∧ v = 0
    | .preemptTaken p c => head 2 p c 0 ∧ v = 0
    | .preemptDone p c => head 3 p c 0 ∧ v = 0
    | .preemptExpired p c => head 4 p c 0 ∧ v = 0
    | .preemptCancelled p c => head 5 p c 0 ∧ v = 0
    | .preemptWithdrawn p c => head 6 p c 0 ∧ v = 0
    | .isolated hd r =>
      head 7 0 0 hd ∧ bits v 2 30 = 0 ∧
        bits v 0 2 = match r with | .checkMismatch => 1 | .memoryError => 2
    | .reclaimed hd p => head 8 p 0 hd ∧ v = 0
    | .fenceReport r reclaimed discarded waiting cancelled =>
      head 9 0 0 0 ∧ bit v 0 = (r == .brk) ∧ bit v 16 = waiting ∧ v &&& 0xFFCEC0FE = 0 ∧
        (reclaimed < 16 → (bits v 8 4).toNat = reclaimed) ∧ (discarded < 4 → (bits v 12 2).toNat = discarded) ∧
        (cancelled < 4 → (bits v 20 2).toNat = cancelled)
    | .overflow => head 10 0 0 0 ∧ v = 0) ∧
  ∀ h : Hub, ∃ w0 w1 w2 w3 w4, h.capability = [w0, w1, w2, w3, w4] ∧
    bits w0 0 16 = 0x0464 ∧ bits w0 16 8 = 0x01 ∧
    (bits w1 0 4).toNat = 4 ∧ (bits w1 8 8).toNat = 64 ∧ (bits w1 16 8).toNat = 128 ∧ (bits w1 24 4).toNat = 8 ∧
    (∀ p, bits w2 (2 * p.val) 2 = match (h.port p).state with | .offline => 0 | .online _ => 1 | .fenced => 2) ∧
    bits w3 0 16 = (h.port 0).epoch ∧ bits w3 16 16 = (h.port 1).epoch ∧
    bits w4 0 16 = (h.port 2).epoch ∧ bits w4 16 16 = (h.port 3).epoch

/-- R33, R34, R32: CLASS_SET, refused in the order of R33; else the settings are replaced, and the waited times of the
class's queued frames restart exactly when the aging interval changes. -/
def Obligations.ClassSetReplacesTheSettings : Prop :=
  ∀ (s : State) (p : PortId) (tag : Tag) (a : ClassSetArgs), s.hub.Filed → s.hub.online p = true → a.limit < 128 →
    a.aging < 65536 →
    let i : Instr := .classSet p tag [classSetWord a]
    let x := s.hub.cls a.cls
    Admitted i s →
    if ¬ (1 ≤ a.limit ∧ a.limit ≤ 64) ∨ ¬ (a.aging = 0 ∨ 10 ≤ a.aging ∧ a.aging ≤ 60000) then
      Refused i s .badValue
    else if a.enabled = false ∧ 0 < x.population then Refused i s .population
    else if a.limit < x.population then Refused i s .population
    else Takes i s (.bare .ok) (fun g =>
      g.cls a.cls = { x with enabled := a.enabled, limit := a.limit, aging := a.aging } ∧
      (∀ j c e w, s.hub.ctx j = some c → c.place = .queued e w → c.control.cls = a.cls → a.aging ≠ x.aging →
        g.frame j = { s.hub.frame j with ctx := some { c with place := .queued e 0 } }) ∧
      s.hub.SameBeyond g
        { frames := fun j => j ∈ x.queue ∧ a.aging ≠ x.aging, classes := (· = a.cls) })

/-! ### The host link -/

/-- R172, R173, R176, R178, R180, and the lease restart of R132: the words a host sends for any request it can form,
which are its header with the code of the table, its payload and its frame check, after any IDLE words and whatever
follows them, put exactly that request into its slot when nothing is outstanding and its tag is not the cached one. No
bit of the frame is lost. -/
def Obligations.RequestFrameFillsTheSlot : Prop :=
  ∀ (s : State) (p : PortId) (r : Request) (idles : Nat) (after : List Word), s.isReady = true →
    (s.link p).outstanding = false → r.payload.length ≤ 20 → (∀ k ∈ (s.link p).cache, k.response.tag ≠ r.tag) →
    let hsi := List.replicate idles Config.idleWord ++ r.words ++ after
    (r.words = r.header :: (r.payload ++ [halfWord (halfSum (r.header :: r.payload))]) ∧
      (r.kind, bits r.header 24 8) ∈ requestCodes ∧ bits r.header 20 4 = r.tag ∧
      (bits r.header 14 6).toNat = r.payload.length ∧ bits r.header 0 14 = 0) ∧
    ∃ t, exec (.requestFrame p hsi) s = .next t ∧
      t.link p = { s.link p with slot := some r, hso := List.replicate hsi.length Config.idleWord } ∧
      (∀ q, q ≠ p → t.link q = s.link q) ∧ t.arbiter = s.arbiter ∧ t.readiness = s.readiness ∧
      t.pending = s.pending ∧ s.hub.SameBeyond t.hub { ports := (· = p) } ∧
      (s.hub.online p = false → t.hub.port p = s.hub.port p) ∧
      ∀ n c, (s.hub.port p).state = .online n → (s.hub.port p).settings = some c →
        t.hub.port p = { s.hub.port p with state := .online c.lease }

/-- R173: the answers LINK_ERROR, MALFORMED and UNKNOWN_REQUEST, in the order of the table, of a Host Port with
nothing outstanding, whatever its replay cache holds: the first two leave the cache and the hub as they were; the
third, given under another tag than the cached one, is recorded in the cache, and of the hub only the lease of an
ONLINE port restarts. The frame check is the sum of the 16-bit halves, modulo 65536. -/
def Obligations.FaultyFramesAreAnsweredAtOnce : Prop :=
  (∀ (s : State) (p : PortId) (header : Word) (rest : List Word), s.isReady = true →
    (s.link p).outstanding = false → header ≠ Config.idleWord → header ≠ Config.breakWord →
    let n := (bits header 14 6).toNat
    let tag := bits header 20 4
    let hso := List.replicate (rest.length + 1) Config.idleWord
    let trailer := halfWord (halfSum (header :: rest.take n))
    let bad : Prop := rest[n]? ≠ some trailer
    ∃ t, exec (.requestFrame p (header :: rest)) s = .next t ∧ (∀ q, q ≠ p → t.link q = s.link q) ∧
      t.arbiter = s.arbiter ∧ t.readiness = s.readiness ∧ t.pending = s.pending ∧
      s.hub.SameBeyond t.hub { ports := (· = p) } ∧
      (bad → t.hub = s.hub ∧
        t.link p = { s.link p with response := some { tag := tag, reply := .bare .linkError }, hso := hso }) ∧
      (¬ bad → bits header 0 14 ≠ 0 ∨ 20 < n → t.hub = s.hub ∧
        t.link p = { s.link p with response := some { tag := tag, reply := .bare .malformed }, hso := hso }) ∧
      (¬ bad → bits header 0 14 = 0 → n ≤ 20 → (∀ k ∈ (s.link p).cache, k.response.tag ≠ tag) →
        (∀ k : ReqKind, (k, bits header 24 8) ∉ requestCodes) →
        let x : Response := { tag := tag, reply := .bare .unknownRequest }
        t.link p = { s.link p with
          response := some x, hso := hso,
          cache := some { header := header, trailer := trailer, response := x } } ∧
        (s.hub.online p = false → t.hub.port p = s.hub.port p) ∧
        ∀ l c, (s.hub.port p).state = .online l → (s.hub.port p).settings = some c →
          t.hub.port p = { s.hub.port p with state := .online c.lease })) ∧
  ∀ ws : List Word, (halfSum ws).toNat = (ws.map (fun w => w.toNat / 65536 + w.toNat % 65536)).sum % 65536

/-- R175: a checked frame under the cached tag is answered from the replay cache when its header and trailer are the
cached ones, and SEQUENCE when they are not; either way no slot is filled and the cache stands. -/
def Obligations.CachedTagReplaysOrIsOutOfSequence : Prop :=
  ∀ (s : State) (p : PortId) (header : Word) (payload : List Word) (k : CacheRec), s.isReady = true →
    (s.link p).outstanding = false → (s.link p).cache = some k → header ≠ Config.idleWord →
    header ≠ Config.breakWord → bits header 0 14 = 0 → (bits header 14 6).toNat = payload.length →
    payload.length ≤ 20 → bits header 20 4 = k.response.tag →
    let trailer := trailerOf header payload
    let hsi := header :: (payload ++ [trailer])
    ∃ t, exec (.requestFrame p hsi) s = .next t ∧
      t.link p = { s.link p with
        response := some (if k.header = header ∧ k.trailer = trailer then k.response
          else { tag := bits header 20 4, reply := .bare .sequence }),
        hso := List.replicate hsi.length Config.idleWord } ∧
      (∀ q, q ≠ p → t.link q = s.link q) ∧ t.arbiter = s.arbiter ∧ t.readiness = s.readiness ∧
      t.pending = s.pending ∧ s.hub.SameBeyond t.hub { ports := (· = p) } ∧
      (s.hub.online p = false → t.hub.port p = s.hub.port p) ∧
      ∀ n c, (s.hub.port p).state = .online n → (s.hub.port p).settings = some c →
        t.hub.port p = { s.hub.port p with state := .online c.lease }

/-- R174: a frame that arrives while a request is outstanding is discarded: it sets OVERRUN, it leaves the outstanding
request, the response and the lease as they were, and its window does not complete a read. That this holds of a frame
cut short, which its window ends before its trailer, is the model's choice (notes/assumptions/8.md). -/
def Obligations.FrameWhileOutstandingSetsOverrun : Prop :=
  ∀ (s : State) (p : PortId) (header : Word) (rest : List Word), s.isReady = true →
    (s.link p).outstanding = true → header ≠ Config.idleWord → header ≠ Config.breakWord →
    ∃ t, exec (.requestFrame p (header :: rest)) s = .next t ∧
      (t.link p).overrun = true ∧ (t.link p).slot = (s.link p).slot ∧ (t.link p).response = (s.link p).response ∧
      (t.link p).cache = (s.link p).cache ∧ (∀ q, q ≠ p → t.link q = s.link q) ∧ t.hub = s.hub ∧
      t.arbiter = s.arbiter ∧ t.readiness = s.readiness ∧ t.pending = s.pending

/-- R172, R177, R179: READ_WINDOW. A window sends the unread response with the flags of this sending and then IDLE
words; a response of which every word was sent is read; and a window without a response, or before the hub is ready,
is IDLE words. -/
def Obligations.ReadWindowSendsTheResponse : Prop :=
  ∀ (s : State) (p : PortId) (n : Nat), ∃ t, exec (.readWindow p n) s = .next t ∧ t.hub = s.hub ∧
    (∀ q, q ≠ p → t.link q = s.link q) ∧ t.arbiter = s.arbiter ∧ t.readiness = s.readiness ∧
    t.pending = s.pending ∧ (t.link p).slot = (s.link p).slot ∧ (t.link p).cache = (s.link p).cache ∧
    (t.link p).hso.length = n ∧
    ((s.link p).response = none ∨ s.isReady = false →
      (t.link p).hso = List.replicate n Config.idleWord ∧ (t.link p).response = (s.link p).response ∧
      (t.link p).overrun = (s.link p).overrun) ∧
    ∀ x, (s.link p).response = some x → s.isReady = true → x.reply.payload.length ≤ 40 →
      ∃ header trailer,
        (t.link p).hso =
          (header :: (x.reply.payload ++ trailer :: List.replicate n Config.idleWord)).take n ∧
        (x.reply.result, bits header 24 8) ∈ resultCodes ∧ bits header 20 4 = x.tag ∧
        (bits header 14 6).toNat = x.reply.payload.length ∧ bit header 13 = s.attn p ∧
        bit header 12 = (s.link p).overrun ∧ bits header 0 12 = 0 ∧
        trailer = halfWord (halfSum (header :: x.reply.payload)) ∧
        if x.reply.payload.length + 2 ≤ n then (t.link p).response = none ∧ (t.link p).overrun = false
        else (t.link p).response = some x ∧ (t.link p).overrun = (s.link p).overrun

/-- R146: BREAK discards the outstanding request and the unread response; it fences an ONLINE port with reason BREAK,
and takes any other port OFFLINE with its notice queue emptied. The replay cache is emptied. `Hub.Fences` says the
fence of R139 to R144, with its notices and, where the queues stand in bands, the order in which frames are reclaimed
and the place each takes (R26, R27, R37, R87). -/
def Obligations.BreakAbandonsTheSession : Prop :=
  ∀ (s : State) (p : PortId), s.isReady = true → s.hub.Filed → s.hub.WaitListTrue →
    ∃ t, exec (.breakFrame p) s = .next t ∧
      (t.link p).slot = none ∧ (t.link p).response = none ∧ (t.link p).overrun = false ∧
      (t.link p).cache = none ∧ (∀ q, q ≠ p → t.link q = s.link q) ∧ t.arbiter = s.arbiter ∧
      t.readiness = s.readiness ∧ t.pending = s.pending ∧
      (s.hub.online p = true → s.hub.Fences t.hub p .brk) ∧
      (s.hub.online p = false → t.hub.port p = { s.hub.port p with state := .offline, notices := [] } ∧
        s.hub.SameBeyond t.hub { ports := (· = p) })

/-! ### Reset, timers, expiries, faults -/

/-- R147: the state of every block after hub reset, whatever it was before. R148: the hub is then not ready, and
HUB_READY makes it so; until it is ready every window is answered with IDLE words alone, no frame is received, the
attention lines are deasserted, and a tick changes no timer. -/
def Obligations.HubResetThenReady : Prop :=
  (∀ s : State, ∃ t, exec .hubReset s = .next t ∧
    (∀ i, t.hub.frame i = { gen := 1, ctx := none }) ∧
    (∀ b, t.hub.block b = { free := true, damaged := false, rewritten := 0 }) ∧
    (∀ a, t.hub.memory.read a = 0) ∧
    (∀ k, t.hub.cls k = { enabled := true, limit := 64, aging := 0, population := 0, queue := [] }) ∧
    (∀ p, t.hub.port p =
      { state := .offline, epoch := 0, settings := none, hold := [], filling := [], claim := .none, stack := [],
        latch := .clear, notices := [] }) ∧
    t.hub.waitList = [] ∧ t.hub.isolation = [] ∧
    (∀ p, (t.link p).slot = none ∧ (t.link p).response = none ∧ (t.link p).overrun = false ∧
      (t.link p).cache = none ∧ t.attn p = false) ∧
    t.arbiter = 0 ∧ t.isReady = false) ∧
  (∀ s : State, exec .hubReady s = .next { s with readiness := .ready }) ∧
  ∀ s : State, s.isReady = false →
    (∃ r, exec .timebaseTick s = .next { s with readiness := r }) ∧
    ∀ p, s.attn p = false ∧
      let idles (n : Nat) : State := s.updLink p (fun l => { l with hso := List.replicate n Config.idleWord })
      (∀ hsi, exec (.requestFrame p hsi) s = .next (idles hsi.length)) ∧
      (∀ n, exec (.readWindow p n) s = .next (idles n)) ∧
      exec (.breakFrame p) s = .next (idles 1)

/-- R29, R91, R112, R132: a tick of a ready hub in which no timer has run out. -/
def Obligations.TickCountsEveryTimer : Prop :=
  ∀ s : State, s.isReady = true → s.NothingDue → ∃ t, exec .timebaseTick s = .next t ∧
    t.links = s.links ∧ t.arbiter = s.arbiter ∧ t.readiness = s.readiness ∧ t.pending = s.pending ∧
    (∀ p, let x := s.hub.port p
      (∀ n, x.state = .online n → (t.hub.port p).state = .online (n - 1)) ∧
      (x.state.isOnline = false → (t.hub.port p).state = x.state) ∧
      (∀ m n, x.claim = .waiting m n → (t.hub.port p).claim = .waiting m (n - 1)) ∧
      (x.claim.isWaiting = false → (t.hub.port p).claim = x.claim) ∧
      (∀ n g, x.latch = .pending n (some g) → (t.hub.port p).latch = .pending n (some (g - 1))) ∧
      (∀ n, x.latch = .pending n none → (t.hub.port p).latch = .pending n none) ∧
      (x.latch.isPending = false → (t.hub.port p).latch = x.latch) ∧
      { t.hub.port p with state := x.state, claim := x.claim, latch := x.latch } = x) ∧
    (∀ j c e w, s.hub.ctx j = some c → c.place = .queued e w →
      t.hub.frame j = { s.hub.frame j with ctx := some { c with place := .queued e (min (w + 1) 60000) } }) ∧
    (∀ j, s.hub.placed Place.isQueued j = false → t.hub.frame j = s.hub.frame j) ∧
    s.hub.SameBeyond t.hub { frames := fun _ => True, ports := fun _ => True }

/-- The model's choices for the tick and for what has fallen due. Before a tick of a ready hub counts, it takes every
event that has fallen due, in a fixed order, and then nothing is due; and a CLAIM_RESULT that finds the wait timer at
0 takes the expiry first, and answers EXPIRED, so that WAITING never carries 0 (notes/assumptions/3.md). From hub
reset the third tick makes the hub ready, if no HUB_READY has (notes/assumptions/5.md). -/
def Obligations.TickFirstTakesWhatIsDue : Prop :=
  (∀ s : State, s.isReady = true → s.hub.ClassesLegal → ∃ t, runAll dueCommands s = .next t ∧ t.NothingDue ∧
    exec .timebaseTick s = exec .timebaseTick t) ∧
  (∀ (s : State) (p : PortId) (tag : Tag) (m : ClassSet), Admitted (.claimResult p tag []) s →
    s.hub.online p = true → (s.hub.port p).claim = .waiting m 0 →
    Takes (.claimResult p tag []) s (.bare .expired) (fun g =>
      g.port p = { s.hub.port p with claim := .none } ∧ g.waitList = s.hub.waitList.erase p ∧
      s.hub.SameBeyond g { ports := (· = p), waitList := True })) ∧
  (∀ (s : State) (n : Nat), s.readiness = .starting n → exec .timebaseTick s =
    .next { s with readiness := if n < 2 then .starting (n + 1) else .ready }) ∧
  (∀ t, runAll [.hubReset, .timebaseTick, .timebaseTick] State.reset = .next t → t.isReady = false) ∧
  ∃ t, runAll [.hubReset, .timebaseTick, .timebaseTick, .timebaseTick] State.reset = .next t ∧ t.isReady = true

/-- R132, R139 to R144: the expiry of a lease fences the port with reason LEASE and empties its replay cache, keeping
its slot and its unread response, as `Hub.Fences` says it, the notices and the order and place of the reclaimed frames
included (R26, R27, R37, R87); by the model's choice (notes/assumptions/4.md) the command does nothing while the lease
has time left. -/
def Obligations.LeaseExpiryFencesThePort : Prop :=
  ∀ (s : State) (p : PortId),
    ((s.hub.port p).state = .online 0 → s.hub.Filed → s.hub.WaitListTrue →
      ∃ t, exec (.leaseExpiry p) s = .next t ∧ s.hub.Fences t.hub p .lease ∧
        t.link p = { s.link p with cache := none } ∧ (∀ q, q ≠ p → t.link q = s.link q) ∧
        t.arbiter = s.arbiter ∧ t.readiness = s.readiness ∧ t.pending = s.pending) ∧
    ((s.hub.port p).state ≠ .online 0 → exec (.leaseExpiry p) s = .next s)

/-- R91: the expiry of a wait timer, and R113: the lapse of a pending notice; by the model's choice
(notes/assumptions/4.md) each command does nothing while its timer has time left or does not run. -/
def Obligations.WaitAndGraceExpiriesEndTheirRecords : Prop :=
  ∀ (s : State) (p : PortId), let x := s.hub.port p
    (∀ m, x.claim = .waiting m 0 → ∃ t, exec (.waitExpiry p) s = .next t ∧ t = { s with hub := t.hub } ∧
      t.hub.port p = { x with claim := .expired } ∧ t.hub.waitList = s.hub.waitList.erase p ∧
      s.hub.SameBeyond t.hub { ports := (· = p), waitList := True }) ∧
    ((∀ m, x.claim ≠ .waiting m 0) → exec (.waitExpiry p) s = .next s) ∧
    (∀ n, x.latch = .pending n (some 0) → n.requester ≠ p →
      ∃ t, exec (.graceExpiry p) s = .next t ∧ t = { s with hub := t.hub } ∧
        t.hub.port p = ({ x with latch := .clear } : Port).told [.preemptWithdrawn n.requester n.cls] ∧
        t.hub.port n.requester = (s.hub.port n.requester).told [.preemptExpired p n.cls] ∧
        s.hub.SameBeyond t.hub { ports := fun q => q = p ∨ q = n.requester }) ∧
    ((∀ n, x.latch ≠ .pending n (some 0)) → exec (.graceExpiry p) s = .next s)

/-- R30, R31: the frames of one band of a class that have waited its aging interval join the tail of the next higher
band together, in their order, with waited time 0; every other band keeps its order. With aging off, or for band 3,
nothing changes. -/
def Obligations.PromotionMovesTheDueFramesUp : Prop :=
  ∀ (s : State) (k : ClassId) (b : Prio), s.hub.Filed → s.hub.QueuesBanded →
    let a := (s.hub.cls k).aging
    let due := (s.hub.cls k).queue.filter (fun j => (s.hub.ctx j).any (fun c =>
      match c.place with
      | .queued e w => e == b && decide (a ≤ w)
      | _ => false))
    ∃ t, exec (.agingPromotion k b) s = .next t ∧ t = { s with hub := t.hub } ∧
      (a = 0 ∨ b = 3 → t.hub = s.hub) ∧
      (a ≠ 0 → b ≠ 3 →
        (∀ e : Prio, (t.hub.cls k).queue.filter (fun j => t.hub.effOf j == e) =
          if e = b + 1 then (s.hub.cls k).queue.filter (fun j => s.hub.effOf j == e) ++ due
          else if e = b then
            ((s.hub.cls k).queue.filter (fun j => s.hub.effOf j == e)).filter (fun j => !due.contains j)
          else (s.hub.cls k).queue.filter (fun j => s.hub.effOf j == e)) ∧
        (t.hub.cls k).queue.Pairwise (fun i j => t.hub.effOf j ≤ t.hub.effOf i) ∧
        t.hub.cls k = { s.hub.cls k with queue := (t.hub.cls k).queue } ∧
        (∀ j ∈ due, ∀ c ∈ s.hub.ctx j,
          t.hub.frame j = { s.hub.frame j with ctx := some { c with place := .queued (b + 1) 0 } }) ∧
        s.hub.SameBeyond t.hub { frames := (· ∈ due), classes := (· = k) })

/-- R19: an outside fault that alters a stored word sets the damage mark of its block and empties the rewritten-word
record; by the model's choice (notes/assumptions/15.md) a FAULT with the word already stored alters nothing. -/
def Obligations.FaultDamagesOneBlock : Prop :=
  ∀ (s : State) (b : BlockId) (pos : Fin 8) (v : Word), s.hub.memory.wf → let a := 8 * b.val + pos.val
    (s.hub.memory.read a ≠ v → ∃ t, exec (.fault b pos v) s = .next t ∧ t = { s with hub := t.hub } ∧
      t.hub.memory.read a = v ∧
      t.hub.block b = { free := (s.hub.block b).free, damaged := true, rewritten := 0 } ∧
      s.hub.SameBeyond t.hub { blocks := (· = b), words := (· = a) }) ∧
    (s.hub.memory.read a = v → exec (.fault b pos v) s = .next s)

/-- R157, R148: the attention line. -/
def Obligations.AttentionLineFollowsItsThreeSources : Prop :=
  ∀ (s : State) (p : PortId), let x := s.hub.port p
    s.attn p = true ↔ s.isReady = true ∧
      (x.notices ≠ [] ∨ ((∃ hd, x.claim = .granted hd) ∨ x.claim = .expired) ∨ ∃ n g, x.latch = .pending n g)

/-! ### Rules of the whole machine -/

/-- R5, and the fixed fields of R7, R9, R11 and R12: but for hub reset, a command either keeps a frame's generation
and, of a frame in use, its class, origin, wait marker, trapped access, image length and blocks, or returns the frame
to FREE with the next generation, 1023 being followed by 1. After hub reset the generation is 1. -/
def Obligations.FixedFieldsLastUntilTheFrameIsFreed : Prop :=
  (∀ i, (State.reset.hub.frame i).gen = 1) ∧
  ∀ (i : Instr) (s t : State) (j : FrameId), exec i s = .next t → i ≠ .hubReset →
    (s.hub.ctx j = none → (t.hub.frame j).gen = (s.hub.frame j).gen) ∧
    ∀ c, s.hub.ctx j = some c →
      ((t.hub.frame j).gen = (s.hub.frame j).gen ∧ ∃ d, t.hub.ctx j = some d ∧
        d.control.cls = c.control.cls ∧ d.origin = c.origin ∧ d.control.waitMarker = c.control.waitMarker ∧
        d.control.trap = c.control.trap ∧ d.len = c.len ∧ d.blocks = c.blocks) ∨
      (t.hub.ctx j = none ∧
        (t.hub.frame j).gen = if (s.hub.frame j).gen = 1023 then 1 else (s.hub.frame j).gen + 1)

/-- R80, R54, R102: no request of one port changes a frame that another port fills, holds or stacks. -/
def Obligations.RequestsLeaveOtherPortsFramesAlone : Prop :=
  ∀ (i : Instr) (s t : State) (p q : PortId) (r : Request) (j : FrameId), s.hub.Filed →
    requestOf i = some (p, r) → p ≠ q → exec i s = .next t →
    s.hub.placed (fun x => x.owner == some q) j = true → t.hub.frame j = s.hub.frame j

/-- R16, R46, R71, R165, R19: the words of the Image Store change only by PARK_WRITE, WRITE_IMAGE, ISOLATION_WRITE,
an outside fault, and hub reset. -/
def Obligations.OnlyWritesAndFaultsChangeStoredWords : Prop :=
  ∀ (i : Instr) (s t : State) (a : Nat), exec i s = .next t → t.hub.memory.read a ≠ s.hub.memory.read a →
    (∃ p tag ws, i = .parkWrite p tag ws ∨ i = .writeImage p tag ws ∨ i = .isolationWrite p tag ws) ∨
      (∃ b pos v, i = .fault b pos v) ∨ i = .hubReset

/-! ### Invariants that every step keeps -/

/-- The state after hub reset has every law below (R147). -/
def Obligations.ResetHasEveryLaw : Prop :=
  let h := State.reset.hub
  h.memory.wf ∧ h.GenerationsLegal ∧ h.FieldsLegal ∧ h.ClassesLegal ∧ h.SessionsLegal ∧ h.Filed ∧
    h.BlocksConserved ∧ h.PopulationsTrue ∧ h.QueuesBanded ∧ h.WaitListTrue ∧ h.NoMissedFrame ∧ h.PortsBounded ∧
    h.OfflineQuiet ∧ h.RecordsLegal ∧ State.reset.LinksLegal ∧ State.reset.ResponsesFit

/-- Every step keeps every generation, field of a frame, class record, session, waiting claim and running grace timer
in its range (R1, R5, R8, R11, R12, R13, R22, R82, R112, R127); and the words of the Image Store in their one form,
which is the model's choice (notes/assumptions/13.md). -/
def Obligations.StepsKeepFieldsInTheirRanges : Prop :=
  ∀ s t : State, s.hub.memory.wf ∧ s.hub.GenerationsLegal ∧ s.hub.FieldsLegal ∧ s.hub.ClassesLegal ∧
    s.hub.SessionsLegal ∧ s.hub.RecordsLegal → step s = .next t →
    t.hub.memory.wf ∧ t.hub.GenerationsLegal ∧ t.hub.FieldsLegal ∧ t.hub.ClassesLegal ∧ t.hub.SessionsLegal ∧
      t.hub.RecordsLegal

/-- Every step keeps every frame recorded in the collection of its state, once, and in no other (R2). -/
def Obligations.StepsKeepEveryFrameFiled : Prop :=
  ∀ s t : State, s.hub.Filed → step s = .next t → t.hub.Filed

/-- Every step keeps each block either free or listed by one frame (R17). -/
def Obligations.StepsKeepBlocksConserved : Prop :=
  ∀ s t : State, s.hub.BlocksConserved → step s = .next t → t.hub.BlocksConserved

/-- Every step keeps each population true to the frames of its class, within its limit, and 0 in a disabled class
(R22, R23). -/
def Obligations.StepsKeepPopulationsTrue : Prop :=
  ∀ s t : State, s.hub.PopulationsTrue → step s = .next t → t.hub.PopulationsTrue

/-- Every step keeps the queues in their bands, in a hub whose frames are filed (R24). -/
def Obligations.StepsKeepQueuesInBands : Prop :=
  ∀ s t : State, s.hub.Filed → s.hub.QueuesBanded → step s = .next t → t.hub.QueuesBanded

/-- Every step keeps the Wait List true to the waiting records, and no claim waiting beside a queued frame it could
claim, in a hub whose frames are filed (R83). -/
def Obligations.StepsLeaveNoClaimWaitingBesideItsFrame : Prop :=
  ∀ s t : State, s.hub.Filed → s.hub.WaitListTrue → s.hub.NoMissedFrame → step s = .next t →
    t.hub.WaitListTrue ∧ t.hub.NoMissedFrame

/-- Every step keeps every hold count, stack, filling list and notice queue within its bound, and every stack in its
three parts (R39, R59, R96, R97, R149). -/
def Obligations.StepsKeepPortsWithinBounds : Prop :=
  ∀ s t : State, s.hub.PortsBounded → step s = .next t → t.hub.PortsBounded

/-- Every step keeps a port that is not ONLINE free of frames, claims and preempt notices, and an OFFLINE one free of
notices (R127, R149). -/
def Obligations.StepsKeepOfflinePortsQuiet : Prop :=
  ∀ s t : State, s.hub.OfflineQuiet → step s = .next t → t.hub.OfflineQuiet

/-- Every step keeps every Host Port at one outstanding request at most, with OVERRUN on an outstanding one only, and
a cached response under the tag of its cached header (R174, R175); and, in a hub whose frames are filed and whose ports
are within their bounds, every response it keeps at 40 payload words at most (R177). -/
def Obligations.StepsKeepHostPortsLegal : Prop :=
  (∀ s t : State, s.LinksLegal → step s = .next t → t.LinksLegal) ∧
    ∀ s t : State, s.hub.Filed → s.hub.PortsBounded → s.ResponsesFit → step s = .next t → t.ResponsesFit
end

