-- ==== Sys2Proof/Laws/State.lean ====
section
/-!
SUPPORT. One lemma per part of the hub per update, so that no proof unfolds a record update.
-/
namespace Sys2Proof.Machine

/-! ### A vector with one place replaced -/

/-- Reading a vector after one place was replaced. -/
theorem get_set {α : Type} {n : Nat} (v : Vector α n) (i j : Fin n) (x : α) :
    (v.set i x).get j = if j = i then x else v.get j := by
  simp only [Vector.get_eq_getElem, Vector.getElem_set, Fin.ext_iff, eq_comm]

/-! ### `Hub.setFrame` -/

@[simp] theorem Hub.setFrame_frame (h : Hub) (i : FrameId) (f : Frame) (j : FrameId) :
    (h.setFrame i f).frame j = if j = i then f else h.frame j := get_set _ _ _ _

@[simp] theorem Hub.setFrame_block (h : Hub) (i : FrameId) (f : Frame) (b : BlockId) :
    (h.setFrame i f).block b = h.block b := rfl

@[simp] theorem Hub.setFrame_cls (h : Hub) (i : FrameId) (f : Frame) (k : ClassId) :
    (h.setFrame i f).cls k = h.cls k := rfl

@[simp] theorem Hub.setFrame_port (h : Hub) (i : FrameId) (f : Frame) (p : PortId) :
    (h.setFrame i f).port p = h.port p := rfl

@[simp] theorem Hub.setFrame_memory (h : Hub) (i : FrameId) (f : Frame) : (h.setFrame i f).memory = h.memory := rfl

@[simp] theorem Hub.setFrame_waitList (h : Hub) (i : FrameId) (f : Frame) : (h.setFrame i f).waitList = h.waitList := rfl

@[simp] theorem Hub.setFrame_isolation (h : Hub) (i : FrameId) (f : Frame) : (h.setFrame i f).isolation = h.isolation := rfl

/-! ### `Hub.putCtx` -/

@[simp] theorem Hub.putCtx_frame (h : Hub) (i : FrameId) (c : Context) (j : FrameId) :
    (h.putCtx i c).frame j = if j = i then { h.frame i with ctx := some c } else h.frame j := get_set _ _ _ _

@[simp] theorem Hub.putCtx_block (h : Hub) (i : FrameId) (c : Context) (b : BlockId) :
    (h.putCtx i c).block b = h.block b := rfl

@[simp] theorem Hub.putCtx_cls (h : Hub) (i : FrameId) (c : Context) (k : ClassId) :
    (h.putCtx i c).cls k = h.cls k := rfl

@[simp] theorem Hub.putCtx_port (h : Hub) (i : FrameId) (c : Context) (p : PortId) :
    (h.putCtx i c).port p = h.port p := rfl

@[simp] theorem Hub.putCtx_memory (h : Hub) (i : FrameId) (c : Context) : (h.putCtx i c).memory = h.memory := rfl

@[simp] theorem Hub.putCtx_waitList (h : Hub) (i : FrameId) (c : Context) : (h.putCtx i c).waitList = h.waitList := rfl

@[simp] theorem Hub.putCtx_isolation (h : Hub) (i : FrameId) (c : Context) : (h.putCtx i c).isolation = h.isolation := rfl

/-! ### `Hub.setBlock` -/

@[simp] theorem Hub.setBlock_frame (h : Hub) (a : BlockId) (x : Block) (j : FrameId) :
    (h.setBlock a x).frame j = h.frame j := rfl

@[simp] theorem Hub.setBlock_block (h : Hub) (a : BlockId) (x : Block) (b : BlockId) :
    (h.setBlock a x).block b = if b = a then x else h.block b := get_set _ _ _ _

@[simp] theorem Hub.setBlock_cls (h : Hub) (a : BlockId) (x : Block) (k : ClassId) :
    (h.setBlock a x).cls k = h.cls k := rfl

@[simp] theorem Hub.setBlock_port (h : Hub) (a : BlockId) (x : Block) (p : PortId) :
    (h.setBlock a x).port p = h.port p := rfl

@[simp] theorem Hub.setBlock_memory (h : Hub) (a : BlockId) (x : Block) : (h.setBlock a x).memory = h.memory := rfl

@[simp] theorem Hub.setBlock_waitList (h : Hub) (a : BlockId) (x : Block) : (h.setBlock a x).waitList = h.waitList := rfl

@[simp] theorem Hub.setBlock_isolation (h : Hub) (a : BlockId) (x : Block) : (h.setBlock a x).isolation = h.isolation := rfl

/-! ### `Hub.updClass` -/

@[simp] theorem Hub.updClass_frame (h : Hub) (l : ClassId) (f : ClassRec → ClassRec) (j : FrameId) :
    (h.updClass l f).frame j = h.frame j := rfl

@[simp] theorem Hub.updClass_block (h : Hub) (l : ClassId) (f : ClassRec → ClassRec) (b : BlockId) :
    (h.updClass l f).block b = h.block b := rfl

@[simp] theorem Hub.updClass_cls (h : Hub) (l : ClassId) (f : ClassRec → ClassRec) (k : ClassId) :
    (h.updClass l f).cls k = if k = l then f (h.cls l) else h.cls k := get_set _ _ _ _

@[simp] theorem Hub.updClass_port (h : Hub) (l : ClassId) (f : ClassRec → ClassRec) (p : PortId) :
    (h.updClass l f).port p = h.port p := rfl

@[simp] theorem Hub.updClass_memory (h : Hub) (l : ClassId) (f : ClassRec → ClassRec) : (h.updClass l f).memory = h.memory := rfl

@[simp] theorem Hub.updClass_waitList (h : Hub) (l : ClassId) (f : ClassRec → ClassRec) : (h.updClass l f).waitList = h.waitList := rfl

@[simp] theorem Hub.updClass_isolation (h : Hub) (l : ClassId) (f : ClassRec → ClassRec) : (h.updClass l f).isolation = h.isolation := rfl

/-! ### `Hub.updPort` -/

@[simp] theorem Hub.updPort_frame (h : Hub) (q : PortId) (f : Port → Port) (j : FrameId) :
    (h.updPort q f).frame j = h.frame j := rfl

@[simp] theorem Hub.updPort_block (h : Hub) (q : PortId) (f : Port → Port) (b : BlockId) :
    (h.updPort q f).block b = h.block b := rfl

@[simp] theorem Hub.updPort_cls (h : Hub) (q : PortId) (f : Port → Port) (k : ClassId) :
    (h.updPort q f).cls k = h.cls k := rfl

@[simp] theorem Hub.updPort_port (h : Hub) (q : PortId) (f : Port → Port) (p : PortId) :
    (h.updPort q f).port p = if p = q then f (h.port q) else h.port p := get_set _ _ _ _

@[simp] theorem Hub.updPort_memory (h : Hub) (q : PortId) (f : Port → Port) : (h.updPort q f).memory = h.memory := rfl

@[simp] theorem Hub.updPort_waitList (h : Hub) (q : PortId) (f : Port → Port) : (h.updPort q f).waitList = h.waitList := rfl

@[simp] theorem Hub.updPort_isolation (h : Hub) (q : PortId) (f : Port → Port) : (h.updPort q f).isolation = h.isolation := rfl

/-! ### The lists and the words of the hub replaced -/

@[simp] theorem Hub.with_memory_frame (h : Hub) (m : Memory) (j : FrameId) :
    Hub.frame { h with memory := m } j = h.frame j := rfl

@[simp] theorem Hub.with_memory_block (h : Hub) (m : Memory) (b : BlockId) :
    Hub.block { h with memory := m } b = h.block b := rfl

@[simp] theorem Hub.with_memory_cls (h : Hub) (m : Memory) (k : ClassId) :
    Hub.cls { h with memory := m } k = h.cls k := rfl

@[simp] theorem Hub.with_memory_port (h : Hub) (m : Memory) (p : PortId) :
    Hub.port { h with memory := m } p = h.port p := rfl

@[simp] theorem Hub.with_waitList_frame (h : Hub) (l : List PortId) (j : FrameId) :
    Hub.frame { h with waitList := l } j = h.frame j := rfl

@[simp] theorem Hub.with_waitList_block (h : Hub) (l : List PortId) (b : BlockId) :
    Hub.block { h with waitList := l } b = h.block b := rfl

@[simp] theorem Hub.with_waitList_cls (h : Hub) (l : List PortId) (k : ClassId) :
    Hub.cls { h with waitList := l } k = h.cls k := rfl

@[simp] theorem Hub.with_waitList_port (h : Hub) (l : List PortId) (p : PortId) :
    Hub.port { h with waitList := l } p = h.port p := rfl

@[simp] theorem Hub.with_isolation_frame (h : Hub) (l : List FrameId) (j : FrameId) :
    Hub.frame { h with isolation := l } j = h.frame j := rfl

@[simp] theorem Hub.with_isolation_block (h : Hub) (l : List FrameId) (b : BlockId) :
    Hub.block { h with isolation := l } b = h.block b := rfl

@[simp] theorem Hub.with_isolation_cls (h : Hub) (l : List FrameId) (k : ClassId) :
    Hub.cls { h with isolation := l } k = h.cls k := rfl

@[simp] theorem Hub.with_isolation_port (h : Hub) (l : List FrameId) (p : PortId) :
    Hub.port { h with isolation := l } p = h.port p := rfl

@[simp] theorem Hub.with_memory_ctx (h : Hub) (m : Memory) (j : FrameId) :
    Hub.ctx { h with memory := m } j = h.ctx j := rfl

@[simp] theorem Hub.with_memory_handle (h : Hub) (m : Memory) (j : FrameId) :
    Hub.handle { h with memory := m } j = h.handle j := rfl

@[simp] theorem Hub.with_memory_effOf (h : Hub) (m : Memory) (j : FrameId) :
    Hub.effOf { h with memory := m } j = h.effOf j := rfl

@[simp] theorem Hub.with_waitList_ctx (h : Hub) (l : List PortId) (j : FrameId) :
    Hub.ctx { h with waitList := l } j = h.ctx j := rfl

@[simp] theorem Hub.with_waitList_handle (h : Hub) (l : List PortId) (j : FrameId) :
    Hub.handle { h with waitList := l } j = h.handle j := rfl

@[simp] theorem Hub.with_waitList_effOf (h : Hub) (l : List PortId) (j : FrameId) :
    Hub.effOf { h with waitList := l } j = h.effOf j := rfl

@[simp] theorem Hub.with_isolation_ctx (h : Hub) (l : List FrameId) (j : FrameId) :
    Hub.ctx { h with isolation := l } j = h.ctx j := rfl

@[simp] theorem Hub.with_isolation_handle (h : Hub) (l : List FrameId) (j : FrameId) :
    Hub.handle { h with isolation := l } j = h.handle j := rfl

@[simp] theorem Hub.with_isolation_effOf (h : Hub) (l : List FrameId) (j : FrameId) :
    Hub.effOf { h with isolation := l } j = h.effOf j := rfl

/-! ### Views that follow from a frame record -/

@[simp] theorem Hub.ctx_putCtx (h : Hub) (i j : FrameId) (c : Context) :
    (h.putCtx i c).ctx j = if j = i then some c else h.ctx j := by
  unfold Hub.ctx; rw [Hub.putCtx_frame]; split <;> rfl

@[simp] theorem Hub.handle_putCtx (h : Hub) (i j : FrameId) (c : Context) :
    (h.putCtx i c).handle j = h.handle j := by
  unfold Hub.handle; rw [Hub.putCtx_frame]; split
  · next e => rw [e]
  · rfl

@[simp] theorem Hub.ctx_updPort (h : Hub) (q : PortId) (f : Port → Port) (j : FrameId) :
    (h.updPort q f).ctx j = h.ctx j := rfl

@[simp] theorem Hub.ctx_updClass (h : Hub) (l : ClassId) (f : ClassRec → ClassRec) (j : FrameId) :
    (h.updClass l f).ctx j = h.ctx j := rfl

@[simp] theorem Hub.ctx_setBlock (h : Hub) (a : BlockId) (x : Block) (j : FrameId) :
    (h.setBlock a x).ctx j = h.ctx j := rfl

@[simp] theorem Hub.handle_updPort (h : Hub) (q : PortId) (f : Port → Port) (j : FrameId) :
    (h.updPort q f).handle j = h.handle j := rfl

@[simp] theorem Hub.handle_updClass (h : Hub) (l : ClassId) (f : ClassRec → ClassRec) (j : FrameId) :
    (h.updClass l f).handle j = h.handle j := rfl

@[simp] theorem Hub.handle_setBlock (h : Hub) (a : BlockId) (x : Block) (j : FrameId) :
    (h.setBlock a x).handle j = h.handle j := rfl

@[simp] theorem Hub.effOf_updPort (h : Hub) (q : PortId) (f : Port → Port) (j : FrameId) :
    (h.updPort q f).effOf j = h.effOf j := rfl

@[simp] theorem Hub.effOf_updClass (h : Hub) (l : ClassId) (f : ClassRec → ClassRec) (j : FrameId) :
    (h.updClass l f).effOf j = h.effOf j := rfl

/-! ### `State.updLink` -/

@[simp] theorem State.updLink_link (s : State) (q p : PortId) (f : Link → Link) :
    (s.updLink q f).link p = if p = q then f (s.link q) else s.link p := get_set _ _ _ _

@[simp] theorem State.updLink_hub (s : State) (q : PortId) (f : Link → Link) : (s.updLink q f).hub = s.hub := rfl

@[simp] theorem State.updLink_arbiter (s : State) (q : PortId) (f : Link → Link) :
    (s.updLink q f).arbiter = s.arbiter := rfl

@[simp] theorem State.updLink_readiness (s : State) (q : PortId) (f : Link → Link) :
    (s.updLink q f).readiness = s.readiness := rfl

@[simp] theorem State.updLink_pending (s : State) (q : PortId) (f : Link → Link) :
    (s.updLink q f).pending = s.pending := rfl

@[simp] theorem State.updLink_isReady (s : State) (q : PortId) (f : Link → Link) :
    (s.updLink q f).isReady = s.isReady := rfl

@[simp] theorem State.with_hub_link (s : State) (h : Hub) (p : PortId) :
    State.link { s with hub := h } p = s.link p := rfl

/-! ### The values of hub reset -/

@[simp] theorem Hub.reset_frame (i : FrameId) : Hub.reset.frame i = Frame.reset := by
  simp [Hub.frame, Hub.reset, Vector.get_eq_getElem]

@[simp] theorem Hub.reset_block (b : BlockId) : Hub.reset.block b = Block.reset := by
  simp [Hub.block, Hub.reset, Vector.get_eq_getElem]

@[simp] theorem Hub.reset_cls (k : ClassId) : Hub.reset.cls k = ClassRec.reset := by
  simp [Hub.cls, Hub.reset, Vector.get_eq_getElem]

@[simp] theorem Hub.reset_port (p : PortId) : Hub.reset.port p = Port.reset := by
  simp [Hub.port, Hub.reset, Vector.get_eq_getElem]

@[simp] theorem State.reset_link (p : PortId) : State.reset.link p = Link.reset := by
  simp [State.link, State.reset, Vector.get_eq_getElem]

@[simp] theorem Memory.reset_read (a : Nat) : Memory.reset.read a = 0 := rfl

end Sys2Proof.Machine
end

