-- ==== Sys2Proof/Laws/Ops.lean ====
section
/-!
SUPPORT. What the shared operations do, each said once.
-/
namespace Sys2Proof.Machine

/-! ### The words of the Image Store (R16) -/

/-- Cells stand by strictly rising address. -/
abbrev Rising (l : List (Nat × Word)) : Prop := l.Pairwise (fun x y => x.1 < y.1)

theorem lookupCell_of_lt {l : List (Nat × Word)} {a : Nat} (h : ∀ x ∈ l, a < x.1) : lookupCell l a = 0 := by
  induction l with
  | nil => rfl
  | cons x l ih =>
    have e := h x (by simp)
    simp only [lookupCell, show ¬ x.1 = a by omega, if_false]
    exact ih (fun y hy => h y (by simp [hy]))

/-- The cells a store touches are those of the list and the one stored. -/
theorem mem_putCell {l : List (Nat × Word)} {k : Nat} {v : Word} {x : Nat × Word} (h : x ∈ putCell l k v) :
    x ∈ l ∨ (x = (k, v) ∧ v ≠ 0) := by
  induction l with
  | nil =>
    simp only [putCell] at h
    split at h <;> simp_all
  | cons y l ih =>
    simp only [putCell] at h
    split at h
    · split at h
      · exact .inl h
      · rcases List.mem_cons.mp h with rfl | h
        · exact .inr ⟨rfl, by assumption⟩
        · exact .inl h
    · split at h
      · split at h
        · exact .inl (List.mem_cons_of_mem _ h)
        · rcases List.mem_cons.mp h with rfl | h
          · exact .inr ⟨rfl, by assumption⟩
          · exact .inl (List.mem_cons_of_mem _ h)
      · rcases List.mem_cons.mp h with rfl | h
        · exact .inl (List.mem_cons_self ..)
        · exact (ih h).imp_left (List.mem_cons_of_mem _)

theorem putCell_rising {l : List (Nat × Word)} (h : Rising l) (k : Nat) (v : Word) : Rising (putCell l k v) := by
  induction l with
  | nil => simp only [putCell]; split <;> simp [Rising]
  | cons y l ih =>
    obtain ⟨h1, h2⟩ := List.pairwise_cons.mp h
    simp only [putCell]
    split
    · split
      · exact h
      · refine List.pairwise_cons.mpr ⟨fun z hz => ?_, h⟩
        rcases List.mem_cons.mp hz with rfl | hz
        · assumption
        · have := h1 z hz; simp only at *; omega
    · split
      · split
        · exact h2
        · refine List.pairwise_cons.mpr ⟨fun z hz => ?_, h2⟩
          have := h1 z hz; simp only at *; omega
      · refine List.pairwise_cons.mpr ⟨fun z hz => ?_, ih h2⟩
        rcases mem_putCell hz with hz | ⟨rfl, -⟩
        · exact h1 z hz
        · simp only at *; omega

theorem lookupCell_putCell {l : List (Nat × Word)} (h : Rising l) (k : Nat) (v : Word) (a : Nat) :
    lookupCell (putCell l k v) a = if a = k then v else lookupCell l a := by
  induction l with
  | nil =>
    simp only [putCell]
    split <;> simp only [lookupCell] <;> split <;> simp_all
    omega
  | cons y l ih =>
    obtain ⟨h1, h2⟩ := List.pairwise_cons.mp h
    simp only [putCell]
    split
    · next hk =>
      split
      · next hv =>
        split
        · next e =>
          subst e hv
          refine lookupCell_of_lt fun x hx => ?_
          rcases List.mem_cons.mp hx with rfl | hx
          · exact hk
          · have := h1 x hx; omega
        · rfl
      · simp only [lookupCell, eq_comm]
    · split
      · next hk e =>
        subst e
        split
        · next hv =>
          split
          · next e =>
            subst e hv
            exact lookupCell_of_lt fun x hx => h1 x hx
          · simp only [lookupCell]
            rw [if_neg (by omega)]
        · simp only [lookupCell]
          split <;> simp_all
          omega
      · simp only [lookupCell, ih h2]
        split <;> split <;> simp_all

/-- Reading after storing: the word stored at its address, every other word as before. -/
theorem Memory.read_write {m : Memory} (h : m.wf) (k : Nat) (v : Word) (a : Nat) :
    (m.write k v).read a = if a = k then v else m.read a := lookupCell_putCell h.1 k v a

/-- Storing keeps the one form of the words. -/
theorem Memory.write_wf {m : Memory} (h : m.wf) {k : Nat} (hk : k < memoryWords) (v : Word) : (m.write k v).wf := by
  refine ⟨putCell_rising h.1 k v, fun x hx => ?_⟩
  rcases mem_putCell hx with hx | ⟨rfl, hv⟩
  · exact h.2 x hx
  · exact ⟨hv, hk⟩

/-- The words after hub reset have the one form. -/
theorem Memory.reset_wf : Memory.reset.wf := by decide

/-- Every place of every block is within the store. -/
theorem place_lt (b : BlockId) (k : Nat) : 8 * b.val + k % 8 < memoryWords := by
  have := b.isLt; unfold memoryWords; omega

/-! ### The image check (R21) -/

/-- The computation of `checkImage` is the one the statements describe. -/
theorem Hub.checkFinds_iff (h : Hub) (c : Context) (o : Option IsoReason) :
    h.CheckFinds c o ↔ h.checkImage c = o := by
  unfold Hub.CheckFinds Hub.checkImage
  simp only [List.any_eq_true]
  split
  · exact eq_comm
  · split <;> exact eq_comm

/-! ### Notices (R37, R150, R151) -/

@[simp] theorem Port.told_nil (x : Port) : x.told [] = x := by unfold Port.told; split <;> rfl

@[simp] theorem Hub.post_rest (h : Hub) (p : PortId) (n : Notice) :
    (∀ j, (h.post p n).frame j = h.frame j) ∧
    (∀ b, (h.post p n).block b = h.block b) ∧
    (∀ k, (h.post p n).cls k = h.cls k) ∧
    (∀ j, (h.post p n).ctx j = h.ctx j) ∧
    (∀ j, (h.post p n).handle j = h.handle j) ∧
    (∀ j, (h.post p n).effOf j = h.effOf j) ∧
    (h.post p n).memory = h.memory ∧
    (h.post p n).waitList = h.waitList ∧
    (h.post p n).isolation = h.isolation := by
  unfold Hub.post; split <;> simp

/-- Posting a notice changes the notice queue of its port, where that is ONLINE, and nothing else. -/
theorem Hub.post_port (h : Hub) (p : PortId) (n : Notice) (q : PortId) :
    (h.post p n).port q = if q = p then (h.port p).told [n] else h.port q := by
  unfold Hub.post Port.told Hub.online
  split <;> split <;> simp_all

@[simp] theorem Port.told_rest (x : Port) (ns : List Notice) :
    (x.told ns).state = x.state ∧ (x.told ns).settings = x.settings ∧ (x.told ns).claim = x.claim ∧
    (x.told ns).hold = x.hold ∧ (x.told ns).filling = x.filling ∧ (x.told ns).stack = x.stack ∧
    (x.told ns).latch = x.latch ∧ (x.told ns).epoch = x.epoch := by
  unfold Port.told; split <;> simp

@[simp] theorem Hub.postIfSubscribed_rest (h : Hub) (c : ClassId) (p : PortId) :
    (∀ j, (h.postIfSubscribed c p).frame j = h.frame j) ∧
    (∀ b, (h.postIfSubscribed c p).block b = h.block b) ∧
    (∀ k, (h.postIfSubscribed c p).cls k = h.cls k) ∧
    (∀ j, (h.postIfSubscribed c p).ctx j = h.ctx j) ∧
    (∀ j, (h.postIfSubscribed c p).handle j = h.handle j) ∧
    (∀ j, (h.postIfSubscribed c p).effOf j = h.effOf j) ∧
    (h.postIfSubscribed c p).memory = h.memory ∧
    (h.postIfSubscribed c p).waitList = h.waitList ∧
    (h.postIfSubscribed c p).isolation = h.isolation := by
  unfold Hub.postIfSubscribed; split <;> simp

theorem Hub.postIfSubscribed_port (h : Hub) (c : ClassId) (p q : PortId) :
    (h.postIfSubscribed c p).port q =
      if q = p then (h.port p).told (readyFor true c (h.port p)) else h.port q := by
  unfold Hub.postIfSubscribed readyFor
  split
  · next e => simp [Hub.post_port, e]
  · next e => simp only [e, Bool.and_false, Bool.false_eq_true, if_false, Port.told_nil]; split <;> simp_all

@[simp] theorem Hub.postReady_rest (h : Hub) (c : ClassId) :
    (∀ j, (h.postReady c).frame j = h.frame j) ∧
    (∀ b, (h.postReady c).block b = h.block b) ∧
    (∀ k, (h.postReady c).cls k = h.cls k) ∧
    (∀ j, (h.postReady c).ctx j = h.ctx j) ∧
    (∀ j, (h.postReady c).handle j = h.handle j) ∧
    (∀ j, (h.postReady c).effOf j = h.effOf j) ∧
    (h.postReady c).memory = h.memory ∧
    (h.postReady c).waitList = h.waitList ∧
    (h.postReady c).isolation = h.isolation := by
  simp [Hub.postReady, allPorts]

/-- CLASS_READY reaches each ONLINE port that subscribes to the class, once. -/
theorem Hub.postReady_port (h : Hub) (c : ClassId) (q : PortId) :
    (h.postReady c).port q = (h.port q).told (readyFor true c (h.port q)) := by
  simp only [Hub.postReady, allPorts, List.foldl_cons, List.foldl_nil, Hub.postIfSubscribed_port]
  fin_cases q <;> simp

/-! ### A frame leaves its owner (R39, R58, R103) -/

@[simp] theorem Hub.leaveOwner_rest (h : Hub) (i : FrameId) (c : Context) :
    (∀ j, (h.leaveOwner i c).frame j = h.frame j) ∧
    (∀ b, (h.leaveOwner i c).block b = h.block b) ∧
    (∀ k, (h.leaveOwner i c).cls k = h.cls k) ∧
    (∀ j, (h.leaveOwner i c).ctx j = h.ctx j) ∧
    (∀ j, (h.leaveOwner i c).handle j = h.handle j) ∧
    (∀ j, (h.leaveOwner i c).effOf j = h.effOf j) ∧
    (h.leaveOwner i c).memory = h.memory ∧
    (h.leaveOwner i c).waitList = h.waitList ∧
    (h.leaveOwner i c).isolation = h.isolation := by
  unfold Hub.leaveOwner; split <;> simp [Hub.leaveFilling, Hub.leaveHold, Hub.leaveStack, Hub.ctx, Hub.handle, Hub.effOf]

/-- A frame leaves the list of its owner, and no other list of any port changes. -/
theorem Hub.leaveOwner_port (h : Hub) (i : FrameId) (c : Context) (q : PortId) :
    (h.leaveOwner i c).port q = h.portWithout i c q := by
  unfold Hub.leaveOwner Hub.portWithout
  cases c.place <;>
    simp only [Hub.leaveFilling, Hub.leaveHold, Hub.leaveStack, Hub.updPort_port, eq_comm (a := q)] <;>
    first
    | rfl
    | (split <;> simp_all)

@[simp] theorem Hub.portWithout_rest (h : Hub) (i : FrameId) (c : Context) (q : PortId) :
    (h.portWithout i c q).claim = (h.port q).claim ∧ (h.portWithout i c q).settings = (h.port q).settings ∧
    (h.portWithout i c q).state = (h.port q).state ∧ (h.portWithout i c q).epoch = (h.port q).epoch ∧
    (h.portWithout i c q).latch = (h.port q).latch ∧ (h.portWithout i c q).notices = (h.port q).notices := by
  unfold Hub.portWithout; cases c.place <;> simp only <;> (try split) <;> simp

/-! ### Isolation (R20, R160) -/

/-- A frame that enters isolation does just what R20 and R160 say, and nothing else changes. -/
theorem Hub.isolate_isolates (h : Hub) (i : FrameId) (c : Context) (r : IsoReason) :
    h.Isolates (h.isolate i c r) i c r ∧
      h.SameBeyond (h.isolate i c r) { frames := (· = i), ports := fun _ => True, isolation := True } := by
  constructor
  · constructor
    · simp only [Hub.isolate, Hub.postIsolated]
      split <;> (try split) <;> simp only [Hub.post_rest, Hub.with_isolation_frame, Hub.putCtx_frame, if_true,
        Hub.leaveOwner_rest]
    · simp only [Hub.isolate, Hub.postIsolated]
      split <;> (try split) <;> simp
    · intro q
      simp only [Hub.isolate, Hub.postIsolated]
      cases ho : c.place.owner with
      | none =>
        simp only [Hub.post_port, Hub.with_isolation_port, Hub.putCtx_port, Hub.leaveOwner_port, reduceCtorEq, or_false,
          Hub.with_isolation_handle, Hub.handle_putCtx, Hub.leaveOwner_rest]
        by_cases e : q = c.origin
        · subst e; simp only [if_true]
        · simp only [e, if_false, Port.told_nil]
      | some o =>
        by_cases e1 : o = c.origin
        · subst e1
          simp only [if_true, Hub.post_port, Hub.with_isolation_port, Hub.putCtx_port, Hub.leaveOwner_port,
            Option.some.injEq, Hub.with_isolation_handle, Hub.handle_putCtx, Hub.leaveOwner_rest]
          by_cases e : q = c.origin
          · subst e; simp only [if_true, true_or]
          · simp only [e, Ne.symm e, or_self, if_false, Port.told_nil]
        · simp only [e1, if_false, Hub.post_port, Hub.with_isolation_port, Hub.putCtx_port, Hub.leaveOwner_port,
            Option.some.injEq, Hub.with_isolation_handle, Hub.handle_putCtx, Hub.leaveOwner_rest]
          by_cases e : q = o
          · subst e; simp only [if_true, e1, or_true, if_false]
          · by_cases e2 : q = c.origin
            · subst e2; simp only [e, if_false, if_true, true_or]
            · simp only [e, e2, Ne.symm e, or_self, if_false, Port.told_nil]
  · refine ⟨fun j hj => ?_, fun _ hq => absurd trivial hq, fun k _ => ?_, fun b _ => ?_, fun a _ => ?_, fun _ => ?_,
      fun hq => absurd trivial hq⟩
    · simp only [Hub.isolate, Hub.postIsolated]
      split <;> (try split) <;>
        simp only [Hub.post_rest, Hub.with_isolation_frame, Hub.putCtx_frame, Hub.leaveOwner_rest, if_neg hj]
    · simp only [Hub.isolate, Hub.postIsolated]
      split <;> (try split) <;>
        simp only [Hub.post_rest, Hub.with_isolation_cls, Hub.putCtx_cls, Hub.leaveOwner_rest]
    · simp only [Hub.isolate, Hub.postIsolated]
      split <;> (try split) <;>
        simp only [Hub.post_rest, Hub.with_isolation_block, Hub.putCtx_block, Hub.leaveOwner_rest]
    · simp only [Hub.isolate, Hub.postIsolated]
      split <;> (try split) <;> simp only [Hub.post_rest, Hub.putCtx_memory, Hub.leaveOwner_rest]
    · simp only [Hub.isolate, Hub.postIsolated]
      split <;> (try split) <;> simp only [Hub.post_rest, Hub.putCtx_waitList, Hub.leaveOwner_rest]

/-! ### Entry to a queue and the Wait List offer (R24 to R27, R87, R88) -/

/-- In a queue that stands in bands, the frames before the head of band `b` are above it, and those after it are not. -/
theorem takeWhile_dropWhile_banded {q : List FrameId} {eff : FrameId → Prio}
    (h : q.Pairwise (fun i j => eff j ≤ eff i)) (t : Prio → Bool) (ht : ∀ a b, a ≤ b → t a = true → t b = true) :
    (∀ j ∈ q.takeWhile (fun j => t (eff j)), t (eff j) = true) ∧
      ∀ j ∈ q.dropWhile (fun j => t (eff j)), t (eff j) = false := by
  refine ⟨fun j hj => by simpa using List.mem_takeWhile_imp hj, ?_⟩
  induction q with
  | nil => simp
  | cons x q ih =>
    obtain ⟨h1, h2⟩ := List.pairwise_cons.mp h
    simp only [List.dropWhile_cons]
    split
    · exact ih h2
    · next n =>
      intro j hj
      rcases List.mem_cons.mp hj with rfl | hj
      · simpa using n
      · by_contra e
        exact n (ht _ _ (h1 j hj) (by simpa using e))

/-- The claim that the offer finds. -/
theorem Hub.offer_some {h : Hub} {c : Context} {passed : Option PortId} {q : PortId} (e : h.offer c passed = some q) :
    h.claimTakes c passed q = true ∧ ∃ ahead behind, h.waitList = ahead ++ q :: behind ∧
      h.waitList.erase q = ahead ++ behind ∧ ∀ r ∈ ahead, h.claimTakes c passed r = false := by
  obtain ⟨hq, ahead, behind, hl, hn⟩ := List.find?_eq_some_iff_append.mp e
  refine ⟨hq, ahead, behind, hl, ?_, fun r hr => by simpa using hn r hr⟩
  rw [hl, List.erase_append_right _ (fun m => ?_), List.erase_cons_head]
  have := hn q m
  simp [hq] at this

/-- An offer that finds nothing. -/
theorem Hub.offer_none {h : Hub} {c : Context} {passed : Option PortId} (e : h.offer c passed = none) :
    ∀ q ∈ h.waitList, h.claimTakes c passed q = false := by
  simpa [Hub.offer] using e

@[simp] theorem Hub.leaveOwner_claimTakes (h : Hub) (i : FrameId) (c d : Context) (passed : Option PortId) (q : PortId) :
    (h.leaveOwner i c).claimTakes d passed q = h.claimTakes d passed q := by
  simp only [Hub.claimTakes, Hub.leaveOwner_port, Hub.portWithout_rest]

/-- What a grant changes (R60, R88). -/
theorem Hub.grant_parts (h : Hub) (i : FrameId) (c : Context) (q : PortId) :
    (∀ j, (h.grant i c q).frame j =
      if j = i then { h.frame i with ctx := some { c with place := .held q false } } else h.frame j) ∧
    (∀ p, (h.grant i c q).port p =
      if p = q then { h.port q with hold := (h.port q).hold ++ [i], claim := .granted (h.handle i) } else h.port p) ∧
    (∀ k, (h.grant i c q).cls k = h.cls k) ∧ (∀ b, (h.grant i c q).block b = h.block b) ∧
    (h.grant i c q).memory = h.memory ∧ (h.grant i c q).waitList = h.waitList.erase q ∧
    (h.grant i c q).isolation = h.isolation := by
  refine ⟨fun j => (Hub.with_waitList_frame _ _ _).trans (by simp [Hub.enterHold]),
    fun p => (Hub.with_waitList_port _ _ _).trans ?_,
    fun k => (Hub.with_waitList_cls _ _ _).trans (by simp [Hub.enterHold]),
    fun b => (Hub.with_waitList_block _ _ _).trans (by simp [Hub.enterHold]), by simp [Hub.grant, Hub.enterHold], rfl,
    by simp [Hub.grant, Hub.enterHold]⟩
  simp only [Hub.enterHold, Hub.updPort_port, Hub.putCtx_port, if_true]
  split <;> rfl

/-- A frame that has left its owner and is made available goes to the oldest claim that takes it, or into its base band;
nothing else changes. -/
theorem Hub.makeAvailable_leaveOwner (h : Hub) (i : FrameId) (d : Context) (cause : Cause) (passed : Option PortId)
    (hb : h.QueuesBanded) :
    let r := (h.leaveOwner i d).makeAvailable i d cause passed
    ((∃ q, r.2 = .granted q ∧ h.Grants r.1 i d cause passed q) ∨
      (r.2 = .queued ∧ h.Inserts r.1 i d cause passed none)) ∧
    r.1.isolation = h.isolation ∧
    h.SameBeyond r.1 { frames := (· = i), ports := fun _ => True, classes := (· = d.control.cls), waitList := True } := by
  intro r
  cases ho : (h.leaveOwner i d).offer d passed with
  | some q =>
    have hr : r = ((h.leaveOwner i d).grant i { d with cause := some cause } q, .granted q) := by
      simp only [r, Hub.makeAvailable, ho]
    obtain ⟨h1, ahead, behind, h2, h3, h4⟩ := Hub.offer_some ho
    simp only [Hub.leaveOwner_claimTakes, Hub.leaveOwner_rest] at h1 h2 h3 h4
    rw [hr]
    obtain ⟨g1, g2, g3, g4, g5, g6, g7⟩ := (h.leaveOwner i d).grant_parts i { d with cause := some cause } q
    simp only [Hub.leaveOwner_rest, Hub.leaveOwner_port] at g1 g2 g3 g4 g5 g6 g7
    refine ⟨.inl ⟨q, rfl, ⟨h1, ⟨ahead, behind, h2, g6.trans h3, h4⟩, ?_, ?_, fun r' hr' => ?_, g3⟩⟩, g7,
      ⟨fun j hj => ?_, fun _ hq => absurd trivial hq, fun k _ => g3 k, fun b _ => g4 b, fun a _ => by rw [g5],
        fun hq => absurd trivial hq, fun _ => g7⟩⟩
    · rw [g1, if_pos rfl]
    · rw [g2, if_pos rfl]
    · rw [g2, if_neg hr']
    · rw [g1, if_neg hj]
  | none =>
    have hr : r = ((h.leaveOwner i d).enqueue i d cause, .queued) := by
      simp only [r, Hub.makeAvailable, ho]
    have h1 := Hub.offer_none ho
    simp only [Hub.leaveOwner_claimTakes, Hub.leaveOwner_rest] at h1
    rw [hr]
    have he : (h.leaveOwner i d).effOf = h.effOf := funext fun j => (h.leaveOwner_rest i d).2.2.2.2.2.1 j
    have key : ∃ ahead behind, (h.cls d.control.cls).queue = ahead ++ behind ∧
        (if cause.entersAtHead then insertHead h.effOf d.control.base [i] (h.cls d.control.cls).queue
          else insertTail h.effOf d.control.base [i] (h.cls d.control.cls).queue) = ahead ++ i :: behind ∧
        if cause = .returned ∨ cause = .reclaimed then
          (∀ j ∈ ahead, d.control.base < h.effOf j) ∧ ∀ j ∈ behind, h.effOf j ≤ d.control.base
        else (∀ j ∈ ahead, d.control.base ≤ h.effOf j) ∧ ∀ j ∈ behind, h.effOf j < d.control.base := by
      have b1 := takeWhile_dropWhile_banded (hb d.control.cls) (fun e => decide (d.control.base < e))
        (fun a b hab ha => decide_eq_true (lt_of_lt_of_le (of_decide_eq_true ha) hab))
      have b2 := takeWhile_dropWhile_banded (hb d.control.cls) (fun e => decide (d.control.base ≤ e))
        (fun a b hab ha => decide_eq_true (le_trans (of_decide_eq_true ha) hab))
      simp only [decide_eq_true_eq, decide_eq_false_iff_not, not_lt, not_le] at b1 b2
      cases cause <;> simp only [Cause.entersAtHead, reduceCtorEq, or_false, or_true, if_true, Bool.false_eq_true, if_false]
      · exact ⟨_, _, (List.takeWhile_append_dropWhile ..).symm, by simp [insertTail], b2⟩
      · exact ⟨_, _, (List.takeWhile_append_dropWhile ..).symm, by simp [insertHead], b1⟩
      · exact ⟨_, _, (List.takeWhile_append_dropWhile ..).symm, by simp [insertHead], b1⟩
      · exact ⟨_, _, (List.takeWhile_append_dropWhile ..).symm, by simp [insertTail], b2⟩
    obtain ⟨ahead, behind, k1, k2, k3⟩ := key
    have rest : ∀ g : Hub, g = (h.leaveOwner i d).enqueue i d cause →
        (∀ j, g.frame j = if j = i then
            { h.frame i with ctx := some { d with cause := some cause, place := .queued d.control.base 0 } }
          else h.frame j) ∧
        (∀ k, g.cls k = if k = d.control.cls then
            { h.cls d.control.cls with queue := ahead ++ i :: behind } else h.cls k) ∧
        (∀ q, g.port q = (h.portWithout i d q).told
          (readyFor (h.cls d.control.cls).queue.isEmpty d.control.cls (h.port q))) ∧
        (∀ b, g.block b = h.block b) ∧ g.memory = h.memory ∧ g.waitList = h.waitList ∧
        g.isolation = h.isolation := by
      rintro g rfl
      simp only [Hub.enqueue, Hub.leaveOwner_rest, he, k2]
      split
      · next e =>
        have e' : ∀ q, readyFor true d.control.cls (h.portWithout i d q) = readyFor true d.control.cls (h.port q) := by
          intro q
          have : (h.portWithout i d q).subscribes d.control.cls = (h.port q).subscribes d.control.cls := by
            unfold Port.subscribes; rw [(h.portWithout_rest i d q).2.1]
          simp only [readyFor, this]
        simp [Hub.postReady_port, Hub.leaveOwner_port, e', e]
      · next e =>
        simp [Hub.leaveOwner_port, readyFor, e]
    obtain ⟨r1, r2, r3, r4, r5, r6, r7⟩ := rest _ rfl
    refine ⟨.inr ⟨rfl, ⟨h1, ?_, ⟨ahead, behind, k1, ?_, k3⟩, fun q => ?_, r6⟩⟩, r7,
      ⟨fun j hj => ?_, fun _ hq => absurd trivial hq, fun k hk => ?_, fun b _ => r4 b, fun a _ => by rw [r5],
        fun hq => absurd trivial hq, fun _ => r7⟩⟩
    · rw [r1, if_pos rfl]
    · rw [r2, if_pos rfl]
    · simp [r3]
    · rw [r1, if_neg hj]
    · rw [r2, if_neg hk]

/-- A frame that its owner no longer lists, made available: it is given up as the outcome says. -/
theorem Hub.makeAvailable_givesUp {h : Hub} {i : FrameId} {c : Context} (hb : h.QueuesBanded)
    (e : h.leaveOwner i c = h) (cause : Cause) (passed : Option PortId) :
    h.GivesUp (h.makeAvailable i c cause passed).1 i c cause passed (h.makeAvailable i c cause passed).2 := by
  have := h.makeAvailable_leaveOwner i c cause passed hb
  rw [e] at this
  obtain ⟨⟨q, ho, hg⟩ | ⟨ho, hg⟩, -, hs⟩ := this
  all_goals exact ⟨by rw [ho]; exact hg, hs⟩

/-- Posting one notice, or none, to one port tells that port and changes nothing else. -/
theorem Hub.post_tells (h : Hub) (q : PortId) (n : Notice) : h.Tells (h.post q n) q [n] := by
  obtain ⟨h1, h2, h3, -, -, -, h4, h5, h6⟩ := h.post_rest q n
  exact ⟨by simp [Hub.post_port], fun j _ => h1 j, fun p hp => by simp [Hub.post_port, show ¬ p = q from hp],
    fun k _ => h3 k, fun b _ => h2 b, fun a _ => by rw [h4], fun _ => h5, fun _ => h6⟩

/-- A hub beside itself: no port told anything. -/
theorem Hub.tells_nil (h : Hub) (q : PortId) : h.Tells h q [] :=
  ⟨by simp, fun _ _ => rfl, fun _ _ => rfl, fun _ _ => rfl, fun _ _ => rfl, fun _ _ => rfl, fun _ => rfl, fun _ => rfl⟩

/-- One frame of the fifth step of a fence, which its owner no longer lists: it is given up, and then its origin is told
(R143). -/
theorem Hub.reclaim_turn {h : Hub} {p : PortId} {i : FrameId} {c : Context} (hb : h.QueuesBanded)
    (hc : h.ctx i = some c) (e : h.leaveOwner i c = h) : ∃ o m,
      h.GivesUp m i c .reclaimed (some p) o ∧
      m.Tells (h.reclaim p i) c.origin (if c.origin = p then [] else [.reclaimed (h.handle i) p]) := by
  refine ⟨_, _, Hub.makeAvailable_givesUp hb e .reclaimed (some p), ?_⟩
  simp only [Hub.reclaim, hc]
  split
  · exact Hub.tells_nil _ _
  · exact Hub.post_tells _ _ _

end Sys2Proof.Machine
end

