-- ==== Sys2Proof/Laws/Requests.lean ====
section
/-!
SUPPORT. A request command is the admission of its request: what that leaves, said once.
-/
namespace Sys2Proof.Machine

/-- The Host Ports of an answered state. -/
theorem State.answered_link (s : State) (p : PortId) (r : Request) (h : Hub) (reply : Reply) (q : PortId) :
    (s.answered p r h reply).link q =
      if q = p then
        { s.link p with
          slot := none, response := some { tag := r.tag, reply := reply },
          cache := if r.kind = .leave ∧ reply.result = .ok then none
            else some { header := r.header, trailer := r.trailer, response := { tag := r.tag, reply := reply } } }
      else s.link q := get_set _ _ _ _

/-- An answered state answers. -/
theorem State.answered_answers (s : State) (p : PortId) (r : Request) (h : Hub) (reply : Reply) :
    s.Answers (s.answered p r h reply) p r reply := by
  constructor
  · rw [State.answered_link, if_pos rfl]
  · rw [State.answered_link, if_pos rfl]
  · rw [State.answered_link, if_pos rfl]
  · rw [State.answered_link, if_pos rfl]
  · rw [State.answered_link, if_pos rfl]
  · intro q hq
    rw [State.answered_link, if_neg hq]
  · rfl
  · rfl
  · rfl

/-- A request command that is admitted goes on by its body. -/
theorem takes_of {i : Instr} {s : State} {p : PortId} {r : Request} {body : Hub × Reply} {reply : Reply}
    {after : Hub → Prop} (hr : requestOf i = some (p, r)) (he : exec i s = s.admission p r body)
    (ha : Admitted i s) (hy : body.2 = reply)
    (hh : after body.1) : Takes i s reply after := by
  simp only [Admitted, hr] at ha
  simp only [Takes, hr]
  subst hy
  exact ⟨_, by rw [he, State.admission, if_pos ha], State.answered_answers .., hh⟩

/-- What a request command's body is. -/
def bodyOf (h : Hub) : Instr → Hub × Reply
  | .join p _ ws => h.takeJoin p ws
  | .leave p _ ws => h.takeLeave p ws
  | .renew p _ ws => h.takeRenew p ws
  | .status p _ ws => h.takeStatus p ws
  | .hubInfo p _ ws => h.takeHubInfo p ws
  | .subscribe p _ ws => h.takeSubscribe p ws
  | .parkOpen p _ ws => h.takeParkOpen p ws
  | .parkWrite p _ ws => h.takeParkWrite p ws
  | .parkClose p _ ws => h.takeParkClose p ws
  | .parkAbort p _ ws => h.takeParkAbort p ws
  | .claim p _ ws => h.takeClaim p ws
  | .readImage p _ ws => h.takeReadImage p ws
  | .writeImage p _ ws => h.takeWriteImage p ws
  | .edit p _ ws => h.takeEdit p ws
  | .returnFrame p _ ws => h.takeReturn p ws
  | .repark p _ ws => h.takeRepark p ws
  | .retire p _ ws => h.takeRetire p ws
  | .claimWait p _ ws => h.takeClaimWait p ws
  | .claimResult p _ ws => h.takeClaimResult p ws
  | .claimCancel p _ ws => h.takeClaimCancel p ws
  | .suspend p _ ws => h.takeSuspend p ws
  | .resumeTop p _ ws => h.takeResumeTop p ws
  | .preempt p _ ws => h.takePreemptRequest p ws
  | .takePreempt p _ ws => h.takeTakePreempt p ws
  | .endPreempt p _ ws => h.takeEndPreempt p ws
  | .isolationList p _ ws => h.takeIsolationList p ws
  | .inspect p _ ws => h.takeInspect p ws
  | .isolationWrite p _ ws => h.takeIsolationWrite p ws
  | .repair p _ ws => h.takeRepair p ws
  | .discard p _ ws => h.takeDiscard p ws
  | .noticeRead p _ ws => h.takeNoticeRead p ws
  | .classSet p _ ws => h.takeClassSet p ws
  | .classGet p _ ws => h.takeClassGet p ws
  | _ => (h, .bare .ok)

/-- Every request command is the admission of its request, taken by its body. -/
theorem exec_request {i : Instr} {p : PortId} {r : Request} (h : requestOf i = some (p, r)) (s : State) :
    exec i s = s.admission p r (bodyOf s.hub i) := by
  cases i <;> simp only [requestOf, Option.some.injEq, Prod.mk.injEq, reduceCtorEq] at h <;>
    (obtain ⟨rfl, rfl⟩ := h; rfl)

/-- A request command that is admitted is answered as its body says. -/
theorem takes_body {i : Instr} {s : State} {p : PortId} {r : Request} {reply : Reply} {after : Hub → Prop}
    (hr : requestOf i = some (p, r)) (ha : Admitted i s) (hy : (bodyOf s.hub i).2 = reply)
    (hh : after (bodyOf s.hub i).1) : Takes i s reply after :=
  takes_of hr (exec_request hr s) ha hy hh

/-- A request command whose body changes nothing and answers a bare result is refused with it. -/
theorem refused_body {i : Instr} {s : State} {p : PortId} {r : Request} {why : Result}
    (hr : requestOf i = some (p, r)) (ha : Admitted i s) (h : bodyOf s.hub i = (s.hub, .bare why)) :
    Refused i s why := takes_body hr ha (by rw [h]) (by rw [h])

end Sys2Proof.Machine
end

