-- ==== Sys2Proof/Laws/Words.lean ====
section
/-!
SUPPORT. Fields of words that were put together from fields: handles, and the words of the requests.
-/
namespace Sys2Proof.Machine

/-! ### Handles (R4, R180) -/

@[simp] theorem handleIndex_handleOf (g : BitVec 10) (i : FrameId) : handleIndex (handleOf g i) = i := by
  apply Fin.ext
  simp only [handleIndex, handleOf]
  have : (BitVec.extractLsb' 0 6 (g ++ BitVec.ofFin (w := 6) i)).toNat = i.val := by
    rw [BitVec.extractLsb'_toNat]
    simp only [BitVec.toNat_append, Nat.shiftRight_zero]
    have hi := i.isLt
    simp only [BitVec.toNat_ofFin]
    rw [Nat.shiftLeft_eq, Nat.mul_comm, ← Nat.two_pow_add_eq_or_of_lt hi]
    omega
  exact this

@[simp] theorem handleGen_handleOf (g : BitVec 10) (i : FrameId) : handleGen (handleOf g i) = g := by
  apply BitVec.eq_of_toNat_eq
  simp only [handleGen, handleOf]
  rw [BitVec.extractLsb'_toNat]
  simp only [BitVec.toNat_append, BitVec.toNat_ofFin]
  have hi := i.isLt
  have hg := g.isLt
  rw [Nat.shiftLeft_eq, Nat.mul_comm, ← Nat.two_pow_add_eq_or_of_lt hi, Nat.shiftRight_eq_div_pow]
  omega

@[simp] theorem wordHandle_append (u x : BitVec 16) : wordHandle (u ++ x) = x := by
  unfold wordHandle bits
  ext k hk
  rw [BitVec.getElem_extractLsb', BitVec.getLsbD_append, ← BitVec.getLsbD_eq_getElem hk]
  simp [hk]

@[simp] theorem upper_append (u x : BitVec 16) : bits (u ++ x) 16 16 = u := by
  unfold bits
  ext k hk
  rw [BitVec.getElem_extractLsb', BitVec.getLsbD_append, ← BitVec.getLsbD_eq_getElem hk]
  simp

/-- The frame a handle word names, in a state the request accepts. -/
theorem Hub.find_handleWord {h : Hub} {i : FrameId} {c : Context} {accepts : Place → Bool} (u : BitVec 16)
    (hc : h.ctx i = some c) (ha : accepts c.place = true) :
    h.find accepts (wordHandle (h.handleWord i u)) = some (i, c) := by
  simp [Hub.find, Hub.handleWord, Hub.handle, hc, ha]

end Sys2Proof.Machine
end

