-- ==== Sys2Proof/WellFormed.lean ====
section
/-!
DEFINITION. Which commands a hub can meet. `exec` is total all the same: an ill-formed request is in no slot and is
turned away, and a window without a frame is a window that reads.
-/
namespace Sys2Proof

/-- The payload of a request in a slot has at most 20 words, since a longer one is MALFORMED (R173). -/
def payloadFits (payload : List Word) : Bool := decide (payload.length ≤ Config.payloadMax)

/-- The words of a window from the first that is not IDLE onward (R172). -/
def afterIdle (hsi : List Word) : List Word := hsi.dropWhile (· == Config.idleWord)

/-- The window carries a header word: its first word other than IDLE is there, and is no BREAK (R172). -/
def carriesHeader (hsi : List Word) : Bool :=
  match afterIdle hsi with
  | [] => false
  | w :: _ => w != Config.breakWord

/-- The check of each command. -/
def Instr.wellFormed : Instr → Bool
  | .join _ _ ws => payloadFits ws
  | .leave _ _ ws => payloadFits ws
  | .renew _ _ ws => payloadFits ws
  | .status _ _ ws => payloadFits ws
  | .hubInfo _ _ ws => payloadFits ws
  | .subscribe _ _ ws => payloadFits ws
  | .parkOpen _ _ ws => payloadFits ws
  | .parkWrite _ _ ws => payloadFits ws
  | .parkClose _ _ ws => payloadFits ws
  | .parkAbort _ _ ws => payloadFits ws
  | .claim _ _ ws => payloadFits ws
  | .readImage _ _ ws => payloadFits ws
  | .writeImage _ _ ws => payloadFits ws
  | .edit _ _ ws => payloadFits ws
  | .returnFrame _ _ ws => payloadFits ws
  | .repark _ _ ws => payloadFits ws
  | .retire _ _ ws => payloadFits ws
  | .claimWait _ _ ws => payloadFits ws
  | .claimResult _ _ ws => payloadFits ws
  | .claimCancel _ _ ws => payloadFits ws
  | .suspend _ _ ws => payloadFits ws
  | .resumeTop _ _ ws => payloadFits ws
  | .preempt _ _ ws => payloadFits ws
  | .takePreempt _ _ ws => payloadFits ws
  | .endPreempt _ _ ws => payloadFits ws
  | .isolationList _ _ ws => payloadFits ws
  | .inspect _ _ ws => payloadFits ws
  | .isolationWrite _ _ ws => payloadFits ws
  | .repair _ _ ws => payloadFits ws
  | .discard _ _ ws => payloadFits ws
  | .noticeRead _ _ ws => payloadFits ws
  | .classSet _ _ ws => payloadFits ws
  | .classGet _ _ ws => payloadFits ws
  | .requestFrame _ hsi => carriesHeader hsi
  | .readWindow _ _ => true
  | .breakFrame _ => true
  | .hubReset => true
  | .hubReady => true
  | .timebaseTick => true
  | .leaseExpiry _ => true
  | .waitExpiry _ => true
  | .graceExpiry _ => true
  | .agingPromotion _ band => decide (band ≠ 3)
  | .fault _ _ _ => true

end Sys2Proof
end

