-- ==== Sys2Proof/Tests/Slice0.lean ====
section
/-!
SUPPORT. Tests of the model against values the spec writes out, and, for each statement of Obligations.lean that has
hypotheses, a concrete state and operands that meet them.
-/
open Sys2Proof Sys2Proof.Machine
namespace Sys2Proof.Tests

/-! ### WellFormed refuses ill-formed commands -/

theorem test_wellFormed_payload_too_long : Instr.wellFormed (.claim 0 0 (List.replicate 21 0)) = false := by decide

theorem test_wellFormed_payload_of_20 : Instr.wellFormed (.claim 0 0 (List.replicate 20 0)) = true := by decide

theorem test_wellFormed_window_without_header :
    Instr.wellFormed (.requestFrame 0 [0x00000FFF, 0x00000FFF]) = false := by decide

theorem test_wellFormed_window_of_break : Instr.wellFormed (.requestFrame 0 [0xFFFFFFFF]) = false := by decide

theorem test_wellFormed_band_three : Instr.wellFormed (.agingPromotion 0 3) = false := by decide

/-! ### Values the spec writes out -/

/-- The table of R4: the handles 12:3, 0:1, 63:1 are 00CCh, 0040h, 007Fh. -/
theorem test_handle_table : handleOf 3 12 = 0x00CC ∧ handleOf 1 0 = 0x0040 ∧ handleOf 1 63 = 0x007F := by decide

/-- The example of section 1.8: the check of the three words is 68AFh. -/
theorem test_image_check_example : halfSum [0x00010002, 0xFFFF0001, 0x12345678] = 0x68AF := by decide

/-- R178, R180: the header of a CLAIM (code 20h) under tag 5 with one payload word. -/
theorem test_claim_header : ({ kind := .claim, tag := 5, payload := [2] } : Request).header = 0x20504000 := by decide

/-- R180: JOIN with lease 1000 and grace 100 carries them in bits 15..0 and 31..16. -/
theorem test_join_words :
    readJoin [0x006403E8, 0x000000FF] = some { lease := 1000, grace := 100, mask := 0xFF } := by decide

/-- R180: the words of a PARK_OPEN with a WRITE of 4 bytes: class 1, base 2, affinity 5, RETRY, marker yes, length 10. -/
theorem test_parkOpen_words :
    readParkOpen [0x0A472521, 0x000068AF, 0x00001000, 0x12345678] = some
      { control := { cls := 1, base := 2, affinity := 5, resume := 2, waitMarker := true,
                     trap := some { address := 0x1000, write := true, width := 4, value := some 0x12345678 } }
        len := 10, check := 0x68AF } := by decide

/-- R180: word 1 of PARK_OPEN has bits 3, 7..6, 15..14, 19, 23 and 31 unused. -/
theorem test_parkOpen_unused_bit : readParkOpen [0x80000000, 0] = none := by decide

/-- R16: an image of 20 words uses positions 0..3 of its third block. -/
theorem test_used_positions : usedMask 20 1 = 0xFF ∧ usedMask 20 2 = 0x0F := by decide

/-- R5: 1023 is followed by 1. -/
theorem test_generation_wraps : nextGen 1023 = 1 ∧ nextGen 1 = 2 := by decide

/-- R182: the capability record of a hub after reset. -/
theorem test_capability_record : Hub.reset.capability = [0x00010464, 0x08804004, 0, 0, 0] := by decide

/-! ### A state in use, and a request before it -/

/-- The hub is ready, and the slot of the port the arbiter looks at first holds the request. -/
def ask (h : Hub) (p : PortId) (r : Request) : State :=
  { State.reset with hub := h, readiness := .ready, arbiter := p,
                     links := State.reset.links.set p { Link.reset with slot := some r } }

theorem ask_link (h : Hub) (p : PortId) (r : Request) : (ask h p r).link p = { Link.reset with slot := some r } := by
  simp [State.link, ask, Vector.get_eq_getElem]

theorem ask_admits (h : Hub) (p : PortId) (r : Request) : (ask h p r).admitsNow p r = true := by
  have a : (ask h p r).arbiter = p := rfl
  have b : (ask h p r).isReady = true := rfl
  simp [State.admitsNow, State.nextAdmitted, a, b, ask_link]

/-- A state with this hub in which the arbiter admits the request of this command next. -/
def doing (h : Hub) (i : Instr) : State :=
  match requestOf i with
  | some (p, r) => ask h p r
  | none => { State.reset with hub := h, readiness := .ready }

theorem doing_admitted (h : Hub) (i : Instr) (e : (requestOf i).isSome = true) : Admitted i (doing h i) := by
  obtain ⟨⟨p, r⟩, f⟩ := Option.isSome_iff_exists.mp e
  simp only [Admitted, doing, f]
  exact ask_admits _ _ _

/-- A frame of one zero word. -/
def plain (k : ClassId) (b : Prio) (a : PortSet) (blk : BlockId) (place : Place) : Context :=
  { control := { cls := k, base := b, affinity := a, resume := .next, waitMarker := false, trap := none }
    origin := 0, cause := some .parked, len := 1, blocks := [blk], check := 0, place := place }

/-- An isolated frame whose check is not the sum of its word. -/
def broken : Context := { plain 0 1 15 4 (.isolated .checkMismatch) with check := 1 }

/-- The frames of `yard`. -/
def yardFrames : Hub :=
  ((((((((Hub.reset.putCtx 0 (plain 0 1 15 0 (.held 0 false))).putCtx 1 (plain 0 1 15 1 (.filling 0 1))).putCtx 2
    (plain 0 1 15 2 (.queued 2 5))).putCtx 3 (plain 0 1 15 3 (.stacked 0))).putCtx 4 broken).putCtx 5
    (plain 0 1 15 5 (.held 1 true))).putCtx 6 (plain 1 0 8 6 (.queued 0 0))).putCtx 7
    (plain 0 1 15 7 (.filling 0 0))).setFree false [0, 1, 2, 3, 4, 5, 6, 7]

/-- The session settings of the ports of `yard`. -/
def settings : Settings := { lease := 1000, grace := 100, mask := 0xFF }

/-- A hub in use: port 0 holds, fills and stacks; port 1 holds a modified frame, waits, and has a notice pending;
port 2 is fenced; port 3 is offline. -/
def yard : Hub :=
  let h := (yardFrames.updClass 0 (fun x => { x with population := 7, queue := [2] })).updClass 1
    (fun x => { x with population := 1, queue := [6] })
  let h := h.updPort 0 (fun x =>
    { x with state := .online 1000, epoch := 1, settings := some settings, hold := [0], filling := [1, 7],
             stack := [{ frame := 3, tag := .voluntary }], notices := [.classReady 0] })
  let h := h.updPort 1 (fun x =>
    { x with state := .online 500, epoch := 1, settings := some settings, hold := [5], claim := .waiting 0x80 40,
             latch := .pending { requester := 0, cls := 1 } (some 50) })
  let h := h.updPort 2 (fun x =>
    { x with state := .fenced, epoch := 1, settings := some settings, notices := [.fenceReport .lease 0 0 false 0] })
  { h with waitList := [1], isolation := [4] }

/-- `yard` with one port changed. -/
def yardWith (p : PortId) (f : Port → Port) : Hub := yard.updPort p f

/-- `yard` with port 3 ONLINE and holding nothing. -/
def guest : Hub := yardWith 3 (fun x => { x with state := .online 10, epoch := 65535, settings := some settings })

/-- `yard` with port 0 serving port 1, and a second notice of port 1 latched: the group on its stack is frames 0 (which
it may keep) and 8 (which it may not). -/
def service : Hub :=
  ((((yard.putCtx 0 (plain 0 1 15 0 (.stacked 0))).putCtx 8 (plain 0 1 2 8 (.stacked 0))).setFree false [8]).updClass 0
    (fun x => { x with population := 8 })).updPort 0 (fun x =>
      { x with hold := [], latch := .servingPending { requester := 1, cls := 0 } { requester := 1, cls := 1 },
               stack := [{ frame := 8, tag := .preempt }, { frame := 0, tag := .preempt },
                         { frame := 3, tag := .voluntary }] })

/-- `yard` with the block of frame 0, of frame 1 and of frame 4 damaged. -/
def struck : Hub :=
  let hit (h : Hub) (b : BlockId) : Hub := h.setBlock b { h.block b with damaged := true }
  hit (hit (hit yard 0) 1) 4

/-- A hub with every frame in use, one filled by port 0 among them, and no other block used. -/
def crowded : Hub :=
  (List.finRange 64).foldl (fun h i => h.putCtx i (plain 1 0 15 0 (.isolated .checkMismatch))) guest

/-- A hub with every block taken. -/
def packed : Hub := guest.setFree false (List.finRange 128)

theorem yard_filed : yard.Filed := by constructor <;> decide

theorem yard_banded : yard.QueuesBanded := by unfold Hub.QueuesBanded; decide

theorem yard_waitList : yard.WaitListTrue := by unfold Hub.WaitListTrue; decide

theorem guest_filed : guest.Filed := by constructor <;> decide

theorem guest_waitList : guest.WaitListTrue := by unfold Hub.WaitListTrue; decide

theorem service_filed : service.Filed := by constructor <;> decide

theorem service_waitList : service.WaitListTrue := by unfold Hub.WaitListTrue; decide

/-! ### The laws hold of a hub in use -/

theorem yard_blocksOf : ∀ i, yard.blocksOf i = if h : i.val < 8 then [⟨i.val, by omega⟩] else [] := by decide

theorem mem_yard_blocksOf (i : FrameId) (b : BlockId) : b ∈ yard.blocksOf i ↔ i.val = b.val ∧ i.val < 8 := by
  rw [yard_blocksOf]; split
  · simp [Fin.ext_iff]; omega
  · simp; omega

theorem yard_free : ∀ b, (yard.block b).free = decide (7 < b.val) := by decide

theorem witness_StepsKeepBlocksConserved : yard.BlocksConserved := by
  constructor
  · intro b
    simp only [mem_yard_blocksOf, yard_free, decide_eq_false_iff_not, Nat.not_lt]
    exact ⟨fun h => ⟨⟨b.val, by omega⟩, rfl, by show b.val < 8; omega⟩, fun ⟨_, e, l⟩ => by omega⟩
  · intro i j b hi hj
    rw [mem_yard_blocksOf] at hi hj
    exact Fin.ext (by omega)
  · unfold Context.BlocksLegal; decide

theorem witness_StepsKeepFieldsInTheirRanges :
    yard.memory.wf ∧ yard.GenerationsLegal ∧ yard.FieldsLegal ∧ yard.ClassesLegal ∧ yard.SessionsLegal ∧
      yard.RecordsLegal := by
  refine ⟨by decide, ?_, ?_, ?_, ?_, by unfold Hub.RecordsLegal; decide⟩
  · unfold Hub.GenerationsLegal; decide
  · unfold Hub.FieldsLegal Context.FieldsLegal Control.ResumeLegal; decide
  · unfold Hub.ClassesLegal; decide
  · unfold Hub.SessionsLegal Port.SessionLegal; decide

theorem witness_StepsKeepPopulationsTrue : yard.PopulationsTrue := by unfold Hub.PopulationsTrue; decide

theorem witness_StepsKeepQueuesInBands : yard.Filed ∧ yard.QueuesBanded := ⟨yard_filed, yard_banded⟩

theorem witness_StepsLeaveNoClaimWaitingBesideItsFrame :
    yard.Filed ∧ yard.WaitListTrue ∧ yard.NoMissedFrame :=
  ⟨yard_filed, yard_waitList, by unfold Hub.NoMissedFrame; decide⟩

theorem witness_StepsKeepPortsWithinBounds : yard.PortsBounded := by
  unfold Hub.PortsBounded Port.Bounded Port.GroupLegal Port.StackInRuns; decide

theorem witness_StepsKeepOfflinePortsQuiet : yard.OfflineQuiet := by
  unfold Hub.OfflineQuiet Port.QuietOffline; decide

theorem witness_StepsKeepHostPortsLegal :
    (doing yard (.claim 0 1 [1])).LinksLegal ∧ (doing yard (.claim 0 1 [1])).ResponsesFit ∧ yard.Filed ∧
      yard.PortsBounded := by
  refine ⟨?_, ?_, yard_filed, witness_StepsKeepPortsWithinBounds⟩
  · unfold State.LinksLegal Link.Legal; decide
  · unfold State.ResponsesFit Link.ResponsesFit; decide

/-- A step from `yard` answers a next state: the premise `step s = .next t` of the invariants. -/
theorem witness_step_from_yard : step { doing yard (.claim 0 1 [1]) with pending := [.timebaseTick] } =
    exec .timebaseTick (doing yard (.claim 0 1 [1])) := rfl

/-! ### The hypotheses of each statement can be met -/

theorem witness_StepRunsTheFrontCommand :
    { State.reset with pending := [.hubReady] }.pending = [.hubReady] ∧ State.reset.pending = [] := ⟨rfl, rfl⟩

theorem witness_AdmittedRequestsAreAnsweredInRotation :
    Admitted (.join 3 0 []) (doing yard (.join 3 0 [])) ∧ ¬ Admitted (.join 3 0 []) State.reset ∧
      (∀ p, (State.reset.link p).slot = none) ∧
      ((ask yard 2 { kind := .status, tag := 0, payload := [] }).link (2 + 0)).slot.isSome = true ∧
      let s := { ask yard 2 { kind := .status, tag := 0, payload := [] } with arbiter := 3 }
      (s.link (s.arbiter + 3)).slot.isSome = true ∧ ∀ j : Fin 4, j < 3 → (s.link (s.arbiter + j)).slot = none :=
  ⟨doing_admitted _ _ rfl, by show ¬ State.admitsNow _ _ _ = true; decide, by decide, by decide, by decide, by decide⟩

theorem witness_SessionCheckGoesByPortState :
    (Admitted (.claim 3 1 []) (doing yard (.claim 3 1 [])) ∧ (yard.port 3).state = .offline) ∧
      (Admitted (.claim 2 1 []) (doing yard (.claim 2 1 [])) ∧ (yard.port 2).state = .fenced) ∧
      (Admitted (.status 2 1 []) (doing yard (.status 2 1 [])) ∧ (yard.port 2).state = .fenced) ∧
      Admitted (.claim 0 1 []) (doing yard (.claim 0 1 [])) ∧ yard.online 0 = true :=
  ⟨⟨doing_admitted _ _ rfl, rfl⟩, ⟨doing_admitted _ _ rfl, rfl⟩, ⟨doing_admitted _ _ rfl, rfl⟩,
    doing_admitted _ _ rfl, rfl⟩

theorem witness_HandleCheckGoesByFrameAndOwner :
    (Admitted (.retire 0 1 [0x40]) (doing yard (.retire 0 1 [0x40])) ∧ yard.online 0 = true ∧
      handleGen (wordHandle 0x40) = (yard.frame (handleIndex (wordHandle 0x40))).gen ∧
      yard.placed (Place.isHeldOf 0) (handleIndex (wordHandle 0x40)) = true) ∧
    (Admitted (.retire 1 1 [0x40]) (doing yard (.retire 1 1 [0x40])) ∧ yard.online 1 = true ∧
      yard.placed (Place.isHeldOf 1) (handleIndex (wordHandle 0x40)) = false) :=
  ⟨⟨doing_admitted _ _ rfl, rfl, by decide, by decide⟩, doing_admitted _ _ rfl, rfl, by decide⟩

/-- A payload whose word `j` has an unused bit set breaks the form of its request. -/
theorem misformed_of_unused {k : ReqKind} {ws : List Word} {w : Word} (j : Nat) (h : ws[j]? = some w)
    (u : w &&& k.unusedAt ws j ≠ 0) : k.Misformed ws := .inr (.inr (.inl ⟨j, w, h, u⟩))

/-- Each way a payload can break its form: too short, too long, an unused bit in the first word or in a later one, and a
PARK_OPEN or REPAIR of another length than it announces. -/
theorem witness_MalformedPayloadIsBadValue :
    (∀ i h, (requestOf i).isSome = true → Admitted i (doing h i)) ∧
    (∀ k : ReqKind, sessionRefusal k (yard.port 0).state = none) ∧ sessionRefusal .join (yard.port 3).state = none ∧
    ReqKind.claim.Misformed [] ∧ ReqKind.claim.Misformed [1, 1] ∧
    ((yard.find (Place.isHeldOf 0) (wordHandle 0x10040)).isSome = true ∧ ReqKind.retire.Misformed [0x10040]) ∧
    ReqKind.join.Misformed [1000, 0x100] ∧ ReqKind.parkOpen.Misformed [0x01000F00, 0x10000] ∧
    ((yard.find (Place.isKeptOf 0) (wordHandle 0x40)).isSome = true ∧ ReqKind.edit.Misformed [0x40, 0x1001]) ∧
    ((yard.find Place.isIsolated (wordHandle 0x44)).isSome = true ∧
      ReqKind.repair.Misformed [0x10044, 0x1001] ∧ ReqKind.repair.Misformed [0x40044, 0x10000] ∧
      ReqKind.repair.Misformed [0x10044] ∧ ReqKind.repair.Misformed [0x44, 1]) ∧
    ReqKind.parkOpen.Misformed [0x01020F00, 0] ∧ ReqKind.parkOpen.Misformed [0x01000F00, 0, 0] := by
  refine ⟨fun i h => doing_admitted h i, fun k => rfl, rfl, .inl (by decide), .inr (.inl (by decide)),
    ⟨by decide, misformed_of_unused 0 rfl (by decide)⟩, misformed_of_unused 1 rfl (by decide),
    misformed_of_unused 1 rfl (by decide), ⟨by decide, misformed_of_unused 1 rfl (by decide)⟩,
    ⟨by decide, misformed_of_unused 1 rfl (by decide), misformed_of_unused 1 rfl (by decide), ?_, ?_⟩, ?_, ?_⟩
  · exact .inr (.inr (.inr (.inr ⟨rfl, _, rfl, by decide⟩)))
  · exact .inr (.inr (.inr (.inr ⟨rfl, _, rfl, by decide⟩)))
  · exact .inr (.inr (.inr (.inl ⟨rfl, _, rfl, by decide⟩)))
  · exact .inr (.inr (.inr (.inl ⟨rfl, _, rfl, by decide⟩)))

theorem witness_JoinAndSubscribeSetTheSession :
    (Admitted (.join 3 1 (joinWords { lease := 10, grace := 0, mask := 1 }))
      (doing yard (.join 3 1 (joinWords { lease := 10, grace := 0, mask := 1 }))) ∧ yard.online 3 = false) ∧
    (Admitted (.join 2 1 (joinWords { lease := 60000, grace := 9, mask := 1 }))
      (doing yard (.join 2 1 (joinWords { lease := 60000, grace := 9, mask := 1 }))) ∧ yard.online 2 = false) ∧
    (Admitted (.join 0 1 (joinWords settings)) (doing yard (.join 0 1 (joinWords settings))) ∧
      yard.online 0 = true) ∧
    Admitted (.subscribe 0 1 [maskWord 0 0]) (doing yard (.subscribe 0 1 [maskWord 0 0])) ∧
      (yard.port 0).settings = some settings :=
  ⟨⟨doing_admitted _ _ rfl, rfl⟩, ⟨doing_admitted _ _ rfl, rfl⟩, ⟨doing_admitted _ _ rfl, rfl⟩,
    doing_admitted _ _ rfl, rfl⟩

theorem witness_EpochChangesOnlyAtJoin : exec .hubReady State.reset = .next { State.reset with readiness := .ready } ∧
    Instr.hubReady ≠ .hubReset := ⟨rfl, by decide⟩

theorem witness_LeaveEndsTheSession :
    (Admitted (.leave 3 1 []) (doing guest (.leave 3 1 [])) ∧ guest.online 3 = true ∧ (guest.port 3).hold = [] ∧
      (guest.port 3).stack = [] ∧ (guest.port 3).filling = [] ∧ (guest.port 3).claim = .none ∧
      (guest.port 3).latch.isServing = false) ∧
    Admitted (.leave 0 1 []) (doing yard (.leave 0 1 [])) ∧ yard.online 0 = true ∧ (yard.port 0).hold ≠ [] :=
  ⟨⟨doing_admitted _ _ rfl, by decide⟩, doing_admitted _ _ rfl, by decide⟩

theorem witness_ReadingRequestsChangeNothing :
    (Admitted (.renew 0 1 []) (doing yard (.renew 0 1 [])) ∧ yard.online 0 = true) ∧
    (Admitted (.status 2 1 []) (doing yard (.status 2 1 [])) ∧ (yard.port 2).state ≠ .offline) ∧
    Admitted (.hubInfo 3 1 []) (doing yard (.hubInfo 3 1 [])) ∧
    Admitted (.isolationList 0 1 []) (doing yard (.isolationList 0 1 [])) ∧
    Admitted (.classGet 0 1 [threeWord 7]) (doing yard (.classGet 0 1 [threeWord 7])) :=
  ⟨⟨doing_admitted _ _ rfl, rfl⟩, ⟨doing_admitted _ _ rfl, by decide⟩, doing_admitted _ _ rfl,
    doing_admitted _ _ rfl, doing_admitted _ _ rfl⟩

theorem witness_StatusWordsGiveBackThePort :
    (yard.port 0).Bounded ∧ (yard.port 1).Bounded ∧ (service.port 0).Bounded ∧ (yard.port 0).settings = some settings ∧
      (yard.port 0).state = .online 1000 ∧ (yard.port 1).claim = .waiting 0x80 40 := by
  unfold Port.Bounded; decide

theorem witness_HeaderRecordGivesBackTheFrame : broken.len < 128 := by decide

/-- R181: the record of frame 4 of `yard`, ISOLATED with reason CHECK_MISMATCH: base 1, cause PARKED, length 1. -/
theorem test_header_record : headerRecord (yard.handle 4) broken 1 = [0x05050044, 0x0012020F, 1, 0, 0] := by decide

/-- The fields of a PARK_OPEN of one word. -/
def newPark : ParkOpenArgs :=
  { control := { cls := 1, base := 3, affinity := 1, resume := 0, waitMarker := false, trap := none }
    len := 1, check := 0 }

/-- The command that carries them from port 3. -/
def parkFrom (p : PortId) (a : ParkOpenArgs) : Instr := .parkOpen p 1 (parkOpenWords a)

theorem newPark_valid : newPark.Fits ∧ newPark.control.Valid true := by
  unfold ParkOpenArgs.Fits RawControl.Valid; decide

theorem witness_ParkRequestsAreRefusedInOrder :
    (∀ a h, Admitted (parkFrom 3 a) (doing h (parkFrom 3 a))) ∧
    (({ newPark with control := { newPark.control with affinity := 0 } } : ParkOpenArgs).Fits ∧
      ¬ RawControl.Valid { newPark.control with affinity := 0 } (guest.cls 1).enabled) ∧
    (newPark.control.Valid (guest.cls 1).enabled ∧ guest.online 3 = true ∧ ¬ (1 ≤ 0 ∧ 0 ≤ 64) ∧
      ¬ (1 ≤ 65 ∧ 65 ≤ 64)) ∧
    (yard.online 0 = true ∧ 2 ≤ (yard.port 0).filling.length) ∧
    (let h := guest.updClass 1 (fun x => { x with limit := 1 })
     (h.port 3).filling.length < 2 ∧ (h.cls 1).population = (h.cls 1).limit) ∧
    ((crowded.port 3).filling.length < 2 ∧ (crowded.cls 1).population < (crowded.cls 1).limit ∧
      ∀ j, crowded.ctx j ≠ none) ∧
    ((packed.cls 1).population < (packed.cls 1).limit ∧ packed.ctx 8 = none ∧ packed.freeBlocks.length < 1) ∧
    (let i : Instr := .parkWrite 0 1 (yard.handleWord 7 (rangeHalf 1 0) :: [5])
     Admitted i (doing yard i) ∧ yard.ctx 7 = some (plain 0 1 15 7 (.filling 0 0)) ∧ 1 ≠ 0) ∧
    (let i : Instr := .parkWrite 0 1 (yard.handleWord 7 (rangeHalf 0 0) :: [5, 6])
     Admitted i (doing yard i) ∧ (plain 0 1 15 7 (.filling 0 0)).len < 0 + [5, 6].length) := by
  refine ⟨fun a h => doing_admitted _ _ rfl, ?_, ?_, by decide, by decide, by decide, by decide,
    ⟨doing_admitted _ _ rfl, by decide⟩, doing_admitted _ _ rfl, by decide⟩
  · unfold ParkOpenArgs.Fits RawControl.Valid; decide
  · unfold RawControl.Valid; decide

theorem guest_free : ∀ b, (guest.block b).free = decide (7 < b.val) := by decide

theorem witness_ParkOpenTakesTheLowestFrameAndBlocks :
    Admitted (parkFrom 3 newPark) (doing guest (parkFrom 3 newPark)) ∧ newPark.Fits ∧ guest.online 3 = true ∧
      newPark.control.Valid (guest.cls 1).enabled ∧ (guest.port 3).filling.length < 2 ∧
      (guest.cls 1).population < (guest.cls 1).limit ∧ guest.ctx 8 = none ∧ (∀ l, l < 8 → guest.ctx l ≠ none) ∧
      ([8] : List BlockId).length = (newPark.len + 7) / 8 ∧ [8].Pairwise (fun a b : BlockId => a < b) ∧
      (∀ b ∈ [8], (guest.block b).free = true) ∧
      ∀ b, (guest.block b).free = true → b ∉ [8] → ∀ b' ∈ [8], b' < b :=
  ⟨doing_admitted _ _ rfl, newPark_valid.1, rfl, newPark_valid.2, by decide, by decide, by decide, by decide,
    by decide, by decide, by decide, fun b f n b' m => by
      simp only [List.mem_singleton] at n m
      have := guest_free b
      rw [f] at this
      simp only [Fin.lt_def, Fin.ext_iff, m] at this n ⊢
      have := of_decide_eq_true this.symm
      simp at n ⊢
      omega⟩

theorem witness_ImageWritesStoreTheirWords :
    struck.memory.wf ∧ (plain 0 1 15 7 (.filling 0 0)).BlocksLegal ∧
    (let i : Instr := .parkWrite 0 1 (struck.handleWord 7 (rangeHalf 0 0) :: [5])
     Admitted i (doing struck i) ∧ struck.ctx 7 = some (plain 0 1 15 7 (.filling 0 0))) ∧
    (let i : Instr := .writeImage 0 1 (struck.handleWord 0 (rangeHalf 0 0) :: [5])
     Admitted i (doing struck i) ∧ struck.ctx 0 = some (plain 0 1 15 0 (.held 0 false))) ∧
    (let i : Instr := .isolationWrite 1 1 (struck.handleWord 4 (rangeHalf 1 0) :: [5])
     Admitted i (doing struck i) ∧ struck.ctx 4 = some broken ∧ broken.len < 1 + [5].length) := by
  refine ⟨by decide, ?_, ⟨doing_admitted _ _ rfl, rfl⟩, ⟨doing_admitted _ _ rfl, rfl⟩, doing_admitted _ _ rfl, rfl,
    by decide⟩
  unfold Context.BlocksLegal; decide

theorem witness_FailedCheckIsolatesTheFrame :
    (let i : Instr := .parkClose 0 1 [yard.handleWord 7 0]
     Admitted i (doing yard i) ∧ yard.ctx 7 = some (plain 0 1 15 7 (.filling 0 0)) ∧ 0 < (plain 0 1 15 7 (.filling 0 0)).len) ∧
    (let i : Instr := .parkClose 0 1 [struck.handleWord 1 0]
     Admitted i (doing struck i) ∧ struck.ctx 1 = some (plain 0 1 15 1 (.filling 0 1)) ∧
       struck.CheckFinds (plain 0 1 15 1 (.filling 0 1)) (some .memoryError)) ∧
    (let i : Instr := .repark 0 1 [yard.handleWord 0 7]
     Admitted i (doing yard i) ∧ yard.ctx 0 = some (plain 0 1 15 0 (.held 0 false)) ∧
       yard.CheckFinds { plain 0 1 15 0 (.held 0 false) with check := 7 } (some .checkMismatch)) := by
  refine ⟨⟨doing_admitted _ _ rfl, rfl, by decide⟩, ⟨doing_admitted _ _ rfl, rfl, ?_⟩, doing_admitted _ _ rfl, rfl, ?_⟩
  · rw [Hub.checkFinds_iff]; decide
  · rw [Hub.checkFinds_iff]; decide

theorem witness_MatchingCheckMakesTheFrameAvailable :
    yard.QueuesBanded ∧
    (let i : Instr := .parkClose 0 1 [yard.handleWord 1 0]
     Admitted i (doing yard i) ∧ yard.ctx 1 = some (plain 0 1 15 1 (.filling 0 1)) ∧
       yard.CheckFinds (plain 0 1 15 1 (.filling 0 1)) none) ∧
    (let i : Instr := .repark 0 1 [yard.handleWord 0 0]
     Admitted i (doing yard i) ∧ yard.ctx 0 = some (plain 0 1 15 0 (.held 0 false)) ∧
       yard.CheckFinds (plain 0 1 15 0 (.held 0 false)) none) := by
  refine ⟨yard_banded, ⟨doing_admitted _ _ rfl, rfl, ?_⟩, doing_admitted _ _ rfl, rfl, ?_⟩ <;>
    (rw [Hub.checkFinds_iff]; decide)

theorem witness_FreeingRequestsReturnTheFrameToFree :
    (Admitted (.parkAbort 0 1 [yard.handleWord 7 0]) (doing yard (.parkAbort 0 1 [yard.handleWord 7 0])) ∧
      yard.ctx 7 = some (plain 0 1 15 7 (.filling 0 0))) ∧
    (Admitted (.retire 1 1 [yard.handleWord 5 0]) (doing yard (.retire 1 1 [yard.handleWord 5 0])) ∧
      yard.ctx 5 = some (plain 0 1 15 5 (.held 1 true))) ∧
    Admitted (.discard 0 1 [yard.handleWord 4 0]) (doing yard (.discard 0 1 [yard.handleWord 4 0])) ∧
      yard.ctx 4 = some broken :=
  ⟨⟨doing_admitted _ _ rfl, rfl⟩, ⟨doing_admitted _ _ rfl, rfl⟩, doing_admitted _ _ rfl, rfl⟩

theorem witness_ClaimTakesTheBestEligibleFrame :
    yard.Filed ∧ Admitted (.claim 0 1 [maskWord 1 0]) (doing yard (.claim 0 1 [maskWord 1 0])) ∧
      yard.online 0 = true ∧ (yard.port 0).holdCount < 4 ∧
      Admitted (.claim 0 1 [maskWord 0 0]) (doing yard (.claim 0 1 [maskWord 0 0])) ∧
      4 ≤ ((yardWith 0 (fun x => { x with hold := [0, 1, 2, 3] })).port 0).holdCount :=
  ⟨yard_filed, doing_admitted _ _ rfl, rfl, by decide, doing_admitted _ _ rfl, by decide⟩

theorem witness_ReadImageReadsOrIsolates :
    (plain 0 1 15 0 (.held 0 false)).BlocksLegal ∧ (plain 0 1 15 0 (.held 0 false)).place.isKeptOf 0 = true ∧
    (let i : Instr := .readImage 0 1 [yard.handleWord 0 (rangeHalf 0 1)]
     Admitted i (doing yard i) ∧ yard.ctx 0 = some (plain 0 1 15 0 (.held 0 false)) ∧ (yard.block 0).damaged = false) ∧
    (let i : Instr := .readImage 0 1 [struck.handleWord 0 (rangeHalf 0 1)]
     Admitted i (doing struck i) ∧ struck.ctx 0 = some (plain 0 1 15 0 (.held 0 false)) ∧
       (struck.block 0).damaged = true) ∧
    (let i : Instr := .readImage 0 1 [yard.handleWord 3 (rangeHalf 0 17)]
     Admitted i (doing yard i) ∧ yard.ctx 3 = some (plain 0 1 15 3 (.stacked 0)) ∧ 16 < 17) := by
  refine ⟨?_, by decide, ⟨doing_admitted _ _ rfl, rfl, by decide⟩, ⟨doing_admitted _ _ rfl, rfl, by decide⟩,
    doing_admitted _ _ rfl, rfl, by decide⟩
  unfold Context.BlocksLegal; decide

theorem witness_EditSetsOneControlField :
    yard.online 0 = true ∧ yard.ctx 3 = some (plain 0 1 15 3 (.stacked 0)) ∧
    (∀ f : FieldChange, let i : Instr := .edit 0 1 [yard.handleWord 3 0, changeWord f]
      Admitted i (doing yard i)) ∧
    RawControl.Valid (FieldChange.setIn (plain 0 1 15 3 (.stacked 0)).control.raw { selector := 1, value := 3 }) true ∧
    ¬ RawControl.Valid (FieldChange.setIn (plain 0 1 15 3 (.stacked 0)).control.raw { selector := 3, value := 1 })
      true := by
  refine ⟨rfl, rfl, fun f => doing_admitted _ _ rfl, ?_⟩
  unfold RawControl.Valid; decide

theorem witness_ReturnGivesTheFrameBack :
    yard.QueuesBanded ∧
    (let i : Instr := .returnFrame 0 1 [yard.handleWord 0 0]
     Admitted i (doing yard i) ∧ yard.ctx 0 = some (plain 0 1 15 0 (.held 0 false))) ∧
    (let i : Instr := .returnFrame 1 1 [yard.handleWord 5 0]
     Admitted i (doing yard i) ∧ yard.ctx 5 = some (plain 0 1 15 5 (.held 1 true))) :=
  ⟨yard_banded, ⟨doing_admitted _ _ rfl, rfl⟩, doing_admitted _ _ rfl, rfl⟩

theorem witness_ClaimWaitTakesAtOnceOrWaits :
    yard.Filed ∧ guest.Filed ∧
    (∀ h p m n, Admitted (.claimWait p 1 [maskWord m n]) (doing h (.claimWait p 1 [maskWord m n]))) ∧
    yard.online 0 = true ∧ (yard.port 0).claim = .none ∧ (yard.port 0).holdCount < 4 ∧
    (yard.port 1).claim ≠ .none ∧ (yard.port 1).holdCount < 4 ∧
    4 ≤ ((yardWith 0 (fun x => { x with hold := [0, 1, 2, 3] })).port 0).holdCount :=
  ⟨yard_filed, guest_filed, fun _ _ _ _ => doing_admitted _ _ rfl, by decide⟩

theorem witness_ClaimResultAndCancelAnswerByRecord :
    (∀ h p, Admitted (.claimResult p 1 []) (doing h (.claimResult p 1 [])) ∧
      Admitted (.claimCancel p 1 []) (doing h (.claimCancel p 1 []))) ∧
    (yard.online 0 = true ∧ (yard.port 0).claim = .none) ∧
    (yard.online 1 = true ∧ (yard.port 1).claim = .waiting 0x80 40 ∧ 1 ≤ 40) ∧
    ((yardWith 0 (fun x => { x with claim := .granted 0x40 })).port 0).claim = .granted 0x40 ∧
    ((yardWith 0 (fun x => { x with claim := .expired })).port 0).claim = .expired :=
  ⟨fun _ _ => ⟨doing_admitted _ _ rfl, doing_admitted _ _ rfl⟩, by decide⟩

theorem witness_StackIsPushedAndPopped :
    (let i : Instr := .suspend 0 1 [yard.handleWord 0 0]
     Admitted i (doing yard i) ∧ yard.ctx 0 = some (plain 0 1 15 0 (.held 0 false)) ∧ (yard.port 0).stack.length < 8) ∧
    8 ≤ ((yardWith 0 (fun x => { x with stack := List.replicate 8 { frame := 3, tag := .voluntary } })).port 0).stack.length ∧
    (∀ h p, Admitted (.resumeTop p 1 []) (doing h (.resumeTop p 1 []))) ∧
    (yard.port 0).stack = { frame := 3, tag := .voluntary } :: [] ∧ (yard.port 0).holdCount < 4 ∧
    yard.ctx 3 = some (plain 0 1 15 3 (.stacked 0)) ∧ (yard.port 1).stack = [] ∧
    (∃ rest, (service.port 0).stack = { frame := 8, tag := .preempt } :: rest) ∧
    4 ≤ ((yardWith 0 (fun x => { x with hold := [0, 1, 2, 3] })).port 0).holdCount :=
  ⟨⟨doing_admitted _ _ rfl, rfl, by decide⟩, by decide, fun _ _ => doing_admitted _ _ rfl, by decide, by decide,
    by decide, by decide, ⟨_, rfl⟩, by decide⟩

theorem witness_PreemptIsAnsweredByTheTargetLatch :
    (∀ h p t k, Admitted (.preempt p 1 [preemptWord t k]) (doing h (.preempt p 1 [preemptWord t k]))) ∧
    yard.online 0 = true ∧ yard.online 1 = true ∧ yard.online 3 = false ∧ (yard.port 0).latch = .clear ∧
    (yard.port 1).latch = .pending { requester := 0, cls := 1 } (some 50) ∧
    (service.port 0).latch = .servingPending { requester := 1, cls := 0 } { requester := 1, cls := 1 } ∧
    (yard.cls 2).enabled = true ∧ ((yard.updClass 2 (fun x => { x with enabled := false })).cls 2).enabled = false :=
  ⟨fun _ _ _ _ => doing_admitted _ _ rfl, by decide⟩

theorem witness_TakePreemptSavesAndClaims :
    yard.Filed ∧ (∀ h p, Admitted (.takePreempt p 1 []) (doing h (.takePreempt p 1 []))) ∧
    (yard.online 1 = true ∧ (yard.port 1).latch = .pending { requester := 0, cls := 1 } (some 50) ∧
      (yard.port 1).stack.length + (yard.port 1).hold.length ≤ 8) ∧
    (yard.online 0 = true ∧ ∀ n g, (yard.port 0).latch ≠ .pending n g) ∧
    8 < ((yardWith 1 (fun x => { x with stack := List.replicate 8 { frame := 3, tag := .voluntary } })).port 1).stack.length
      + (yard.port 1).hold.length :=
  ⟨yard_filed, fun _ _ => doing_admitted _ _ rfl, by decide, ⟨rfl, fun _ _ h => by cases h⟩, by decide⟩

/-- A port about to meet HOLD_FULL: it serves, waits, and may restore all four frames of its group. -/
def full : Hub :=
  service.updPort 0 (fun x => { x with
    claim := .waiting 0x80 9
    stack := [0, 0, 0, 0].map (fun i => { frame := i, tag := .preempt }) })

theorem witness_EndPreemptIsRefusedInOrder :
    (∀ h p, Admitted (.endPreempt p 1 []) (doing h (.endPreempt p 1 []))) ∧
    (yard.online 0 = true ∧ (yard.port 0).latch.isServing = false) ∧
    (service.online 0 = true ∧ (service.port 0).latch.isServing = true ∧ (service.port 0).hold = []) ∧
    ((service.updPort 0 (fun x => { x with hold := [0] })).port 0).hold ≠ [] ∧
    (∃ e rest, ((service.updPort 0 (fun x => { x with stack := { frame := 3, tag := .voluntary } :: x.stack })).port
      0).stack = e :: rest ∧ e.tag = .voluntary ∧ ∃ f ∈ rest, (f.tag == StackTag.preempt) = true) ∧
    ((full.port 0).claim.isWaiting = true ∧ ((full.port 0).stack.filter (fun e => e.tag == .preempt)).length = 4 ∧
      ∀ e ∈ (full.port 0).stack, (full.ctx e.frame).any (fun c => c.allows 0) = true) :=
  ⟨fun _ _ => doing_admitted _ _ rfl, by decide, by decide, by decide,
    ⟨_, _, rfl, rfl, { frame := 8, tag := .preempt }, by decide, by decide⟩, by decide⟩

theorem witness_EndPreemptRestoresAndDiverts :
    service.Filed ∧ service.WaitListTrue ∧ service.QueuesBanded ∧ service.online 0 = true ∧
    Admitted (.endPreempt 0 1 []) (doing service (.endPreempt 0 1 [])) ∧
    (service.port 0).latch = .servingPending { requester := 1, cls := 0 } { requester := 1, cls := 1 } ∧
    (service.port 0).hold = [] ∧ (service.port 0).claim.isWaiting = false ∧
    ((service.port 0).stack.filter (fun e => e.tag == .preempt)).length ≤ 4 ∧
    ∀ e rest, (service.port 0).stack = e :: rest → e.tag = .preempt :=
  ⟨service_filed, service_waitList, by unfold Hub.QueuesBanded; decide, rfl, doing_admitted _ _ rfl, rfl, rfl, rfl,
    by decide, fun e rest h => by cases h; rfl⟩

theorem witness_InspectReportsTheIsolatedFrame :
    yard.online 1 = true ∧ yard.ctx 4 = some broken ∧ struck.ctx 4 = some broken ∧
      (∀ h n, let i : Instr := .inspect 1 1 [Hub.handleWord h 4 (rangeHalf 0 n)]
        Admitted i (doing h i)) ∧
      (yard.block 4).damaged = false ∧ (struck.block 4).damaged = true ∧ broken.len < 0 + 2 :=
  ⟨rfl, rfl, rfl, fun _ _ => doing_admitted _ _ rfl, by decide, by decide, by decide⟩

theorem witness_RepairMakesItsChangesBeforeTheCheck :
    yard.QueuesBanded ∧ yard.online 0 = true ∧ yard.ctx 4 = some broken ∧
    (∀ ws, Admitted (.repair 0 1 ws) (doing yard (.repair 0 1 ws))) ∧
    RawControl.Valid (FieldChange.setIn broken.control.raw { selector := 1, value := 3 }) true ∧
    ¬ RawControl.Valid (FieldChange.setIn broken.control.raw { selector := 2, value := 0 }) true ∧
    yard.CheckFinds { broken with check := 0 } none ∧ yard.CheckFinds broken (some .checkMismatch) ∧
    struck.CheckFinds broken (some .memoryError) := by
  refine ⟨yard_banded, rfl, rfl, fun _ => doing_admitted _ _ rfl, ?_, ?_, ?_, ?_, ?_⟩ <;>
    first
    | (unfold RawControl.Valid; decide)
    | (rw [Hub.checkFinds_iff]; decide)

theorem witness_NoticesArePostedAndRead :
    (yard.port 2).state ≠ .offline ∧
    (∀ n, Admitted (.noticeRead 2 1 [threeWord n]) (doing yard (.noticeRead 2 1 [threeWord n]))) ∧
    yard.online 2 = false ∧ yard.online 0 = true ∧ (yard.port 0).notices.length ≤ 14 ∧
    ((yardWith 0 (fun x => { x with notices := List.replicate 15 .overflow })).port 0).notices.length = 15 ∧
    ((yardWith 0 (fun x => { x with notices := List.replicate 16 .overflow })).port 0).notices.length = 16 :=
  ⟨by decide, fun _ => doing_admitted _ _ rfl, by decide⟩

theorem witness_ClassSetReplacesTheSettings :
    yard.Filed ∧ yard.online 0 = true ∧
    (∀ a, Admitted (.classSet 0 1 [classSetWord a]) (doing yard (.classSet 0 1 [classSetWord a]))) ∧
    (yard.cls 0).population = 7 ∧ (yard.cls 0).aging ≠ 10 ∧
    yard.ctx 2 = some (plain 0 1 15 2 (.queued 2 5)) :=
  ⟨yard_filed, rfl, fun _ => doing_admitted _ _ rfl, by decide⟩

/-! ### The link and the events -/

/-- A ready hub with nothing outstanding. -/
def open_ (h : Hub) : State := { State.reset with hub := h, readiness := .ready }

/-- The cached record of a CLAIM answered EMPTY. -/
def emptyClaim : CacheRec :=
  { header := 0x20504000, trailer := trailerOf 0x20504000 [1], response := { tag := 5, reply := .bare .empty } }

/-- A request whose response is cached, read. -/
def cached : State :=
  (open_ yard).updLink 0 (fun l => { l with cache := some emptyClaim })

/-- A response that waits unread. -/
def answered : State :=
  (open_ yard).updLink 0 (fun l => { l with response := some { tag := 5, reply := .okWith [1, 2] } })

theorem witness_RequestFrameFillsTheSlot :
    cached.isReady = true ∧ (cached.link 0).outstanding = false ∧ ([2] : List Word).length ≤ 20 ∧
      ∀ k ∈ (cached.link 0).cache, k.response.tag ≠ 6 := by decide

/-- With nothing cached and with tag 5 cached: a window of a header alone, a reserved bit set, and an unknown code under
tag 6 from an ONLINE port. -/
theorem witness_FaultyFramesAreAnsweredAtOnce :
    (cached.isReady = true ∧ (cached.link 0).outstanding = false ∧ (cached.link 0).cache = some emptyClaim) ∧
      ((open_ yard).isReady = true ∧ ((open_ yard).link 0).outstanding = false ∧
        ((open_ yard).link 0).cache = none) ∧
      (0x20500000 : Word) ≠ Config.idleWord ∧ (0x20500000 : Word) ≠ Config.breakWord ∧
      ([] : List Word)[(bits (0x20500000 : Word) 14 6).toNat]? = none ∧
      bits (0x20500001 : Word) 0 14 ≠ 0 ∧
      (let header : Word := 0xEE600000
       header ≠ Config.idleWord ∧ header ≠ Config.breakWord ∧ (bits header 14 6).toNat = 0 ∧
        (∀ k ∈ (cached.link 0).cache, k.response.tag ≠ bits header 20 4) ∧
        ∀ k : ReqKind, (k, bits header 24 8) ∉ requestCodes) ∧
      yard.online 2 = false ∧ (yard.port 0).state = .online 1000 ∧ (yard.port 0).settings = some settings := by
  refine ⟨by decide, by decide, by decide, by decide, rfl, by decide,
    ⟨by decide, by decide, by decide, by decide, fun k => ?_⟩, by decide⟩
  cases k <;> decide

theorem witness_CachedTagReplaysOrIsOutOfSequence :
    cached.isReady = true ∧ (cached.link 0).outstanding = false ∧
      (cached.link 0).cache = some emptyClaim ∧
      bits (0x20504000 : Word) 0 14 = 0 ∧ (bits (0x20504000 : Word) 14 6).toNat = 1 ∧
      bits (0x20504000 : Word) 20 4 = 5 ∧ trailerOf 0x20504000 [1] ≠ trailerOf 0x20504000 [2] := by decide

theorem witness_FrameWhileOutstandingSetsOverrun :
    answered.isReady = true ∧ (answered.link 0).outstanding = true ∧
      (doing yard (.claim 0 1 [1])).isReady = true ∧ ((doing yard (.claim 0 1 [1])).link 0).outstanding = true ∧
      (0x20504000 : Word) ≠ Config.idleWord ∧ (0x20504000 : Word) ≠ Config.breakWord := by decide

theorem witness_ReadWindowSendsTheResponse :
    ((open_ yard).link 0).response = none ∧ State.reset.isReady = false ∧
      (answered.link 0).response = some { tag := 5, reply := .okWith [1, 2] } ∧ answered.isReady = true ∧
      2 + 2 ≤ 4 ∧ ¬ 2 + 2 ≤ 3 := by decide

theorem witness_BreakAbandonsTheSession :
    (open_ yard).isReady = true ∧ yard.Filed ∧ yard.WaitListTrue ∧ yard.QueuesBanded ∧ yard.online 0 = true ∧
      yard.online 2 = false :=
  ⟨rfl, yard_filed, yard_waitList, yard_banded, rfl, rfl⟩

theorem witness_HubResetThenReady : State.reset.isReady = false := rfl

theorem witness_TickCountsEveryTimer : (open_ yard).isReady = true ∧ (open_ yard).NothingDue := by
  refine ⟨rfl, fun p => ⟨?_, ?_, ?_⟩, ?_⟩
  · revert p; decide
  · revert p; decide
  · intro n h
    have d : ∀ p : PortId, (match (yard.port p).latch with
      | .pending _ (some 0) => true
      | _ => false) = false := by decide
    have := d p
    rw [show (yard.port p).latch = _ from h] at this
    simp at this
  · decide

/-- `yard` at a tick that has brought the wait timer of port 1 to 0. -/
def lapsed : Hub := yardWith 1 (fun x => { x with claim := .waiting 0x80 0 })

theorem witness_TickFirstTakesWhatIsDue :
    (open_ yard).isReady = true ∧ yard.ClassesLegal ∧ State.reset.readiness = .starting 0 ∧
      Admitted (.claimResult 1 1 []) (doing lapsed (.claimResult 1 1 [])) ∧ lapsed.online 1 = true ∧
      (lapsed.port 1).claim = .waiting 0x80 0 :=
  ⟨rfl, witness_StepsKeepFieldsInTheirRanges.2.2.2.1, rfl, doing_admitted _ _ rfl, rfl, rfl⟩

theorem witness_LeaseExpiryFencesThePort :
    ((yardWith 0 (fun x => { x with state := .online 0 })).port 0).state = .online 0 ∧
      (yardWith 0 (fun x => { x with state := .online 0 })).Filed ∧
      (yardWith 0 (fun x => { x with state := .online 0 })).WaitListTrue ∧
      (yardWith 0 (fun x => { x with state := .online 0 })).QueuesBanded ∧ (yard.port 0).state ≠ .online 0 := by
  refine ⟨by decide, by constructor <;> decide, ?_, ?_, by decide⟩
  · unfold Hub.WaitListTrue; decide
  · unfold Hub.QueuesBanded; decide

theorem witness_WaitAndGraceExpiriesEndTheirRecords :
    ((yardWith 1 (fun x => { x with claim := .waiting 0x80 0 })).port 1).claim = .waiting 0x80 0 ∧
      (yard.port 1).claim = .waiting 0x80 40 ∧
      ((yardWith 1 (fun x => { x with latch := .pending { requester := 0, cls := 1 } (some 0) })).port 1).latch =
        .pending { requester := 0, cls := 1 } (some 0) ∧ (0 : PortId) ≠ 1 := by decide

theorem witness_PromotionMovesTheDueFramesUp :
    yard.Filed ∧ yard.QueuesBanded ∧ (yard.cls 0).aging = 0 ∧
      (let h := yard.updClass 0 (fun x => { x with aging := 5 })
       h.Filed ∧ h.QueuesBanded ∧ h.dueFrames 0 2 = [2]) := by
  refine ⟨yard_filed, yard_banded, rfl, ⟨by constructor <;> decide, ?_, by decide⟩⟩
  unfold Hub.QueuesBanded; decide

theorem witness_FaultDamagesOneBlock :
    yard.memory.wf ∧ yard.memory.read (8 * 127 + 7) ≠ 1 ∧ yard.memory.read (8 * 0 + 0) = 0 := by decide

theorem witness_FixedFieldsLastUntilTheFrameIsFreed :
    (∃ t, exec .timebaseTick (open_ yard) = .next t) ∧ Instr.timebaseTick ≠ .hubReset ∧ yard.ctx 8 = none ∧
      yard.ctx 4 = some broken := ⟨⟨_, rfl⟩, by decide, by decide, by decide⟩

theorem witness_RequestsLeaveOtherPortsFramesAlone :
    yard.Filed ∧ (∃ t, exec (.claim 0 1 [1]) (doing yard (.claim 0 1 [1])) = .next t) ∧
      yard.placed (fun x => x.owner == some 1) 5 = true :=
  ⟨yard_filed, ⟨_, rfl⟩, by decide⟩

theorem witness_OnlyWritesAndFaultsChangeStoredWords :
    ∃ t, exec (.fault 0 0 1) (open_ yard) = .next t ∧ t.hub.memory.read 0 ≠ (open_ yard).hub.memory.read 0 :=
  ⟨_, rfl, by decide⟩

/-! ### One step, against the worked sequences of chapter 12 -/

/-- The reply in the response buffer of a port after a command. -/
def replyAfter (i : Instr) (s : State) (p : PortId) : Option Reply :=
  match exec i s with
  | .next t => (t.link p).response.map Response.reply
  | _ => none

/-- 12.1: the first JOIN of port 0 answers epoch 1 and the capability record, the port ONLINE in it. -/
theorem test_first_join : replyAfter (.join 0 0 [1000, 0]) (doing Hub.reset (.join 0 0 [1000, 0])) 0 =
    some (.okWith [1, 0x00010464, 0x08804004, 1, 1, 0]) := by decide

/-- R6: a RETIRE of a handle of another generation is answered BAD_HANDLE. -/
theorem test_retire_of_old_handle :
    replyAfter (.retire 0 1 [0x80]) (doing yard (.retire 0 1 [0x80])) 0 = some (.bare .badHandle) := by decide

/-- 12.3: a PREEMPT to a port whose latch is CLEAR is answered POSTED. -/
theorem test_preempt_posted :
    replyAfter (.preempt 1 1 [0x500]) (doing yard (.preempt 1 1 [0x500])) 1 = some (.bare .posted) := by decide

/-- R123, R181: END_PREEMPT of `service`: the notice word of (1, 0), one restored and one diverted, the handle 0:1
restored, 8:1 diverted to its queue, and a PENDING latch. -/
theorem test_end_preempt_answer :
    replyAfter (.endPreempt 0 1 []) (doing service (.endPreempt 0 1 [])) 0 =
      some (.okWith [1, 0x11, 0x40, 0x48, 1]) := by decide

/-- R93, notes/assumptions/3.md: CLAIM_RESULT at the tick that has brought the wait timer to 0 answers EXPIRED. -/
theorem test_claim_result_at_zero :
    replyAfter (.claimResult 1 1 []) (doing lapsed (.claimResult 1 1 [])) 1 = some (.bare .expired) := by decide

/-- R143: BREAK at port 1, which holds frame 5 of origin 0: port 0 is told PREEMPT_CANCELLED and then RECLAIMED. -/
theorem test_break_notices :
    (match exec (.breakFrame 1) (open_ yard) with
      | .next t => (t.hub.port 0).notices
      | _ => []) = [.classReady 0, .preemptCancelled 1 1, .reclaimed 0x45 1] := by decide

/-- R183: STATUS of port 0 of `yard`, word by word. -/
theorem test_status_words : yard.statusWords 0 =
    [0x00110001, 0x006403E8, 0x000211FF, 0x000103E8, 0, 0, 0, 0, 0x40, 0x43, 0x00010041, 0x47] := by decide

/-- R177: a response is sent with its flags and trailer, then IDLE: code 00h, tag 5, two words, ATTN asserted. -/
theorem test_response_words : answered.windowWords 0 5 =
    [0x0050A000, 1, 2, 0x0000A053, 0x00000FFF] := by decide

end Sys2Proof.Tests
end

section
/-!
An outside fault, and the handle check of R6.
-/
open Sys2Proof Sys2Proof.Machine
namespace Sys2Proof.Machine

/-! ### An outside fault (R19) -/

@[simp] theorem Hub.strike_block (h : Hub) (b : BlockId) (pos : Fin 8) (v : Word) (a : BlockId) :
    (h.strike b pos v).block a =
      if a = b then { h.block b with damaged := true, rewritten := 0 } else h.block a :=
  (Hub.with_memory_block _ _ _).trans (Hub.setBlock_block ..)

/-- What a fault alters: its word, and the marks of its block. -/
theorem Hub.strike_sameBeyond {h : Hub} (hm : h.memory.wf) (b : BlockId) (pos : Fin 8) (v : Word) :
    h.SameBeyond (h.strike b pos v) { blocks := (· = b), words := (· = 8 * b.val + pos.val) } where
  frames _ _ := rfl
  ports _ _ := rfl
  classes _ _ := rfl
  blocks _ ha := (Hub.strike_block ..).trans (if_neg ha)
  words a ha := (Memory.read_write hm _ v a).trans (if_neg ha)
  waitList _ := rfl
  isolation _ := rfl

/-! ### The handle check (R6) -/

theorem Hub.find_eq_some {h : Hub} {accepts : Place → Bool} {hd : BitVec 16} {i : FrameId} {c : Context}
    (e : h.find accepts hd = some (i, c)) :
    i = handleIndex hd ∧ (h.frame i).gen = handleGen hd ∧ h.ctx i = some c ∧ accepts c.place = true := by
  unfold Hub.find at e
  split at e
  · next hg =>
    split at e
    · next d hd' =>
      split at e
      · next ha =>
        obtain ⟨rfl, rfl⟩ := Prod.mk.inj (Option.some.inj e)
        exact ⟨rfl, hg, hd', ha⟩
      · cases e
    · cases e
  · cases e

/-- A handle names a frame to a request exactly when its generation is the present one and the frame is in a place the
request accepts. -/
theorem Hub.find_isSome_iff (h : Hub) (accepts : Place → Bool) (hd : BitVec 16) :
    (h.find accepts hd).isSome = true ↔
      handleGen hd = (h.frame (handleIndex hd)).gen ∧ h.placed accepts (handleIndex hd) = true := by
  unfold Hub.find Hub.placed
  by_cases hg : (h.frame (handleIndex hd)).gen = handleGen hd
  · cases hc : h.ctx (handleIndex hd) with
    | none => simp
    | some c => by_cases ha : accepts c.place = true <;> simp [hg, ha]
  · simp [hg, Ne.symm hg]

/-- A request that names a handle, taken from an ONLINE port: BAD_HANDLE goes by the handle alone, where the rest of the
request never answers it. -/
theorem takes_handled {i : Instr} {s : State} {p : PortId} {r : Request} {α : Type} {accepts : Place → Bool} {w : Word}
    {rest : List Word} {args : Word → List Word → Option α} {body : FrameId → Context → α → Hub × Reply}
    (hr : requestOf i = some (p, r)) (ha : Admitted i s) (ho : s.hub.online p = true)
    (hb : bodyOf s.hub i = s.hub.session r.kind p (s.hub.handled accepts (w :: rest) args body))
    (hne : ∀ j c a, (body j c a).2.result ≠ .badHandle) :
    if handleGen (wordHandle w) = (s.hub.frame (handleIndex (wordHandle w))).gen ∧
        s.hub.placed accepts (handleIndex (wordHandle w)) = true then
      ∃ reply, Takes i s reply (fun _ => True) ∧ reply.result ≠ .badHandle
    else Refused i s .badHandle := by
  have hs : sessionRefusal r.kind (s.hub.port p).state = none := by
    unfold Hub.online at ho
    cases hx : (s.hub.port p).state with
    | online n => rfl
    | offline => simp [hx, PortState.isOnline] at ho
    | fenced => simp [hx, PortState.isOnline] at ho
  simp only [Hub.session, hs, Hub.handled] at hb
  cases hf : s.hub.find accepts (wordHandle w) with
  | none =>
    rw [if_neg (by rw [← Hub.find_isSome_iff, hf]; simp)]
    exact refused_body hr ha (by rw [hb, hf])
  | some x =>
    obtain ⟨j, c⟩ := x
    rw [if_pos (by rw [← Hub.find_isSome_iff, hf]; rfl)]
    refine ⟨_, takes_body hr ha rfl trivial, ?_⟩
    simp only [hb, hf, Hub.form]
    split
    · simp [Reply.bare]
    · exact hne _ _ _

/-! No request answers BAD_HANDLE past its handle check. -/

theorem Hub.parkWriteWith_result (h : Hub) (p : PortId) (i : FrameId) (c : Context) (a : Nat × List Word) :
    (h.parkWriteWith p i c a).2.result ≠ .badHandle := by
  unfold Hub.parkWriteWith; repeat' split
  all_goals simp [Reply.bare, Reply.okWith]

theorem Hub.parkCloseWith_result (h : Hub) (i : FrameId) (c : Context) :
    (h.parkCloseWith i c).2.result ≠ .badHandle := by
  unfold Hub.parkCloseWith; split <;> simp [Reply.okWith]

theorem Hub.readImageWith_result (h : Hub) (i : FrameId) (c : Context) (a : Nat × Nat) :
    (h.readImageWith i c a).2.result ≠ .badHandle := by
  unfold Hub.readImageWith; repeat' split
  all_goals simp [Reply.bare, Reply.okWith]

theorem Hub.writeImageWith_result (h : Hub) (p : PortId) (i : FrameId) (c : Context) (a : Nat × List Word) :
    (h.writeImageWith p i c a).2.result ≠ .badHandle := by
  unfold Hub.writeImageWith; split <;> simp [Reply.bare]

theorem Hub.editWith_result (h : Hub) (i : FrameId) (c : Context) (f : FieldChange) :
    (h.editWith i c f).2.result ≠ .badHandle := by
  unfold Hub.editWith; repeat' split
  all_goals simp [Reply.bare, Reply.okWith]

theorem Hub.returnWith_result (h : Hub) (p : PortId) (i : FrameId) (c : Context) :
    (h.returnWith p i c).2.result ≠ .badHandle := by
  unfold Hub.returnWith; split <;> simp [Reply.bare, Reply.okWith]

theorem Hub.suspendWith_result (h : Hub) (p : PortId) (i : FrameId) :
    (h.suspendWith p i).2.result ≠ .badHandle := by
  unfold Hub.suspendWith; split <;> simp [Reply.bare, Reply.okWith]

theorem Hub.inspectWith_result (h : Hub) (i : FrameId) (c : Context) (a : Nat × Nat) :
    (h.inspectWith i c a).2.result ≠ .badHandle := by
  unfold Hub.inspectWith; repeat' split
  all_goals simp [Reply.bare, Reply.okWith]

theorem Hub.isolationWriteWith_result (h : Hub) (c : Context) (a : Nat × List Word) :
    (h.isolationWriteWith c a).2.result ≠ .badHandle := by
  unfold Hub.isolationWriteWith; split <;> simp [Reply.bare]

theorem Hub.repairChecked_result (h : Hub) (i : FrameId) (c : Context) :
    (h.repairChecked i c).2.result ≠ .badHandle := by
  unfold Hub.repairChecked
  split
  · next r _ => cases r <;> simp [IsoReason.result]
  · simp [Reply.okWith]

theorem Hub.repairWith_result (h : Hub) (i : FrameId) (c : Context) (a : RepairArgs) :
    (h.repairWith i c a).2.result ≠ .badHandle := by
  unfold Hub.repairWith
  split
  · simp [Reply.bare]
  · split
    · simp [Reply.bare]
    · split
      · simp [Reply.bare]
      · exact h.repairChecked_result _ _

end Sys2Proof.Machine

/-- Settles O46: a fault either finds its word already stored, or is `Hub.strike`. -/
theorem faultDamagesOneBlock : Obligations.FaultDamagesOneBlock := by
  intro s b pos v hm a
  refine ⟨fun hne => ?_, fun he => ?_⟩
  · have hx : exec (.fault b pos v) s = .next { s with hub := s.hub.strike b pos v } := if_neg hne
    exact ⟨_, hx, rfl, (Memory.read_write hm _ _ _).trans (if_pos rfl),
      (Hub.strike_block ..).trans (if_pos rfl), Hub.strike_sameBeyond hm b pos v⟩
  · exact if_pos he

/-- Settles O4: each of the 14 requests is its handle check before a body that never answers BAD_HANDLE. -/
theorem handleCheckGoesByFrameAndOwner : Obligations.HandleCheckGoesByFrameAndOwner := by
  rintro i s p ⟨kind, tag, payload⟩ accepts w rest hr ha ho hk hp
  dsimp only at hk hp
  cases i <;> simp only [requestOf, Option.some.injEq, Prod.mk.injEq, Request.mk.injEq, reduceCtorEq] at hr
  all_goals obtain ⟨rfl, rfl, rfl, rfl⟩ := hr
  all_goals simp only [ReqKind.accepts, Option.some.injEq, reduceCtorEq] at hk
  all_goals subst hk hp
  case parkWrite => exact takes_handled rfl ha ho rfl (s.hub.parkWriteWith_result _)
  case parkClose => exact takes_handled rfl ha ho rfl fun j c _ => s.hub.parkCloseWith_result j c
  case parkAbort => exact takes_handled rfl ha ho rfl fun _ _ _ => by simp [Reply.bare]
  case readImage => exact takes_handled rfl ha ho rfl s.hub.readImageWith_result
  case writeImage => exact takes_handled rfl ha ho rfl (s.hub.writeImageWith_result _)
  case edit => exact takes_handled rfl ha ho rfl s.hub.editWith_result
  case returnFrame => exact takes_handled rfl ha ho rfl fun j c _ => s.hub.returnWith_result _ j c
  case repark => exact takes_handled rfl ha ho rfl fun _ _ _ => by simp [Hub.reparkWith, Reply.okWith]
  case retire => exact takes_handled rfl ha ho rfl fun _ _ _ => by simp [Reply.bare]
  case suspend => exact takes_handled rfl ha ho rfl fun j _ _ => s.hub.suspendWith_result _ j
  case inspect => exact takes_handled rfl ha ho rfl s.hub.inspectWith_result
  case isolationWrite => exact takes_handled rfl ha ho rfl fun _ => s.hub.isolationWriteWith_result
  case repair => exact takes_handled rfl ha ho rfl s.hub.repairWith_result
  case discard => exact takes_handled rfl ha ho rfl fun _ _ _ => by simp [Reply.bare]
end

section
/-!
What each operation of the hub changes and what it leaves: freeing, opening, stacking, waiting, promoting, storing.
-/
namespace Sys2Proof.Machine

/-! ### A frame that leaves its owner (R39, R58, R103) -/

theorem Hub.leaveOwner_ctx (h : Hub) (i : FrameId) (c : Context) (j : FrameId) :
    (h.leaveOwner i c).ctx j = h.ctx j := by
  obtain ⟨-, -, -, ctx, -⟩ := h.leaveOwner_rest i c
  exact ctx j

theorem Hub.leaveOwner_online (h : Hub) (i : FrameId) (c : Context) (p : PortId) :
    (h.leaveOwner i c).online p = h.online p := by
  obtain ⟨-, -, state, -⟩ := h.portWithout_rest i c p
  rw [Hub.online, Hub.leaveOwner_port, state, Hub.online]

/-! ### The free set (R17) -/

@[simp] theorem Hub.setFree_rest (h : Hub) (v : Bool) (bs : List BlockId) :
    (∀ j, (h.setFree v bs).frame j = h.frame j) ∧ (∀ j, (h.setFree v bs).ctx j = h.ctx j) ∧
    (∀ k, (h.setFree v bs).cls k = h.cls k) ∧ (∀ p, (h.setFree v bs).port p = h.port p) ∧
    (h.setFree v bs).memory = h.memory ∧ (h.setFree v bs).waitList = h.waitList ∧
    (h.setFree v bs).isolation = h.isolation := by
  induction bs generalizing h with
  | nil => simp [Hub.setFree]
  | cons b bs ih => simp [Hub.setFree, ih]

theorem Hub.setFree_block (h : Hub) (v : Bool) (bs : List BlockId) (b : BlockId) :
    (h.setFree v bs).block b = if b ∈ bs then { h.block b with free := v } else h.block b := by
  induction bs generalizing h with
  | nil => simp [Hub.setFree]
  | cons a bs ih =>
    simp only [Hub.setFree, ih, Hub.setBlock_block, List.mem_cons]
    by_cases e : b = a <;> by_cases m : b ∈ bs <;> simp_all

/-! ### A frame freed (R18) -/

theorem Hub.freeFrame_frame (h : Hub) (i : FrameId) (c : Context) (j : FrameId) :
    (h.freeFrame i c).frame j = if j = i then { gen := nextGen (h.frame i).gen, ctx := none } else h.frame j := by
  simp [Hub.freeFrame]

theorem Hub.freeFrame_ctx (h : Hub) (i : FrameId) (c : Context) (j : FrameId) :
    (h.freeFrame i c).ctx j = if j = i then none else h.ctx j := by
  unfold Hub.ctx; rw [Hub.freeFrame_frame]; split <;> rfl

theorem Hub.freeFrame_block (h : Hub) (i : FrameId) (c : Context) (b : BlockId) :
    (h.freeFrame i c).block b = if b ∈ c.blocks then { h.block b with free := true } else h.block b := by
  simp [Hub.freeFrame, Hub.setFree_block]

theorem Hub.freeFrame_cls (h : Hub) (i : FrameId) (c : Context) (k : ClassId) :
    (h.freeFrame i c).cls k =
      if k = c.control.cls then { h.cls k with population := (h.cls k).population - 1 } else h.cls k := by
  simp only [Hub.freeFrame, Hub.setFrame_cls, Hub.updClass_cls, Hub.setFree_rest]
  split
  · next e => rw [e]
  · rfl

@[simp] theorem Hub.freeFrame_rest (h : Hub) (i : FrameId) (c : Context) :
    (∀ p, (h.freeFrame i c).port p = h.port p) ∧ (h.freeFrame i c).memory = h.memory ∧
    (h.freeFrame i c).waitList = h.waitList ∧ (h.freeFrame i c).isolation = h.isolation := by
  simp [Hub.freeFrame]

@[simp] theorem Hub.freeAll_rest (h : Hub) (l : List FrameId) :
    (∀ p, (h.freeAll l).port p = h.port p) ∧ (∀ k, ((h.freeAll l).cls k).queue = (h.cls k).queue) ∧
    (h.freeAll l).memory = h.memory ∧ (h.freeAll l).waitList = h.waitList ∧
    (h.freeAll l).isolation = h.isolation := by
  induction l generalizing h with
  | nil => simp [Hub.freeAll]
  | cons i l ih =>
    unfold Hub.freeAll
    split
    · refine ⟨fun p => by simp [ih], fun k => ?_, by simp [ih], by simp [ih], by simp [ih]⟩
      rw [(ih _).2.1, Hub.freeFrame_cls]
      split <;> rfl
    · exact ih h

theorem Hub.freeAll_ctx (h : Hub) (l : List FrameId) (j : FrameId) :
    (h.freeAll l).ctx j = if j ∈ l then none else h.ctx j := by
  induction l generalizing h with
  | nil => simp [Hub.freeAll]
  | cons i l ih =>
    unfold Hub.freeAll
    split
    · simp only [ih, Hub.freeFrame_ctx, List.mem_cons]
      by_cases e : j = i <;> by_cases m : j ∈ l <;> simp_all
    · next hn =>
      simp only [ih, List.mem_cons]
      by_cases e : j = i <;> by_cases m : j ∈ l <;> simp_all

/-! ### A frame opened (R42) -/

section Opened
variable (h : Hub) (p : PortId) (i : FrameId) (c : Control) (len : Nat) (check : BitVec 16)

theorem Hub.openPark_frame (j : FrameId) :
    (h.openPark p i c len check).frame j =
      if j = i then
        { h.frame i with ctx := some (openedContext p c len check (h.freeBlocks.take (blocksFor len))) }
      else h.frame j := by
  simp [Hub.openPark]

theorem Hub.openPark_ctx (j : FrameId) :
    (h.openPark p i c len check).ctx j =
      if j = i then some (openedContext p c len check (h.freeBlocks.take (blocksFor len))) else h.ctx j := by
  unfold Hub.ctx; rw [Hub.openPark_frame]; split <;> rfl

theorem Hub.openPark_block (b : BlockId) :
    (h.openPark p i c len check).block b =
      if b ∈ h.freeBlocks.take (blocksFor len) then { h.block b with free := false } else h.block b := by
  simp [Hub.openPark, Hub.setFree_block]

theorem Hub.openPark_cls (k : ClassId) :
    (h.openPark p i c len check).cls k =
      if k = c.cls then { h.cls k with population := (h.cls k).population + 1 } else h.cls k := by
  simp only [Hub.openPark, Hub.updClass_cls, Hub.updPort_cls, Hub.putCtx_cls, Hub.setFree_rest]
  split
  · next e => rw [e]
  · rfl

theorem Hub.openPark_port (q : PortId) :
    (h.openPark p i c len check).port q =
      if q = p then { h.port p with filling := (h.port p).filling ++ [i] } else h.port q := by
  simp [Hub.openPark]

@[simp] theorem Hub.openPark_rest :
    (h.openPark p i c len check).memory = h.memory ∧ (h.openPark p i c len check).waitList = h.waitList ∧
    (h.openPark p i c len check).isolation = h.isolation := by
  simp [Hub.openPark]

end Opened

/-- The lowest free frame is free. -/
theorem Hub.ctx_of_lowestFree {h : Hub} {i : FrameId} (e : h.lowestFree = some i) : h.ctx i = none := by
  simpa using List.find?_some e

theorem Hub.mem_freeBlocks {h : Hub} {b : BlockId} : b ∈ h.freeBlocks ↔ (h.block b).free = true := by
  simp [Hub.freeBlocks]

theorem Hub.freeBlocks_nodup (h : Hub) : h.freeBlocks.Nodup := (List.nodup_finRange _).filter _

/-! ### Frames stacked (R99, R116) -/

@[simp] theorem Hub.stackFrame_rest (h : Hub) (p : PortId) (i : FrameId) :
    (∀ q, (h.stackFrame p i).port q = h.port q) ∧ (∀ k, (h.stackFrame p i).cls k = h.cls k) ∧
    (h.stackFrame p i).memory = h.memory ∧ (h.stackFrame p i).waitList = h.waitList ∧
    (h.stackFrame p i).isolation = h.isolation := by
  unfold Hub.stackFrame; split <;> simp

theorem Hub.stackFrame_ctx (h : Hub) (p : PortId) (i j : FrameId) :
    (h.stackFrame p i).ctx j =
      if j = i then (h.ctx i).map (fun c => { c with place := .stacked p }) else h.ctx j := by
  unfold Hub.stackFrame
  split
  · next e => simp [e]
  · next e => split <;> simp_all

theorem Hub.foldl_stackFrame_rest (h : Hub) (p : PortId) (l : List FrameId) :
    (∀ q, (l.foldl (fun g i => g.stackFrame p i) h).port q = h.port q) ∧
    (∀ k, (l.foldl (fun g i => g.stackFrame p i) h).cls k = h.cls k) ∧
    (l.foldl (fun g i => g.stackFrame p i) h).memory = h.memory ∧
    (l.foldl (fun g i => g.stackFrame p i) h).waitList = h.waitList ∧
    (l.foldl (fun g i => g.stackFrame p i) h).isolation = h.isolation := by
  induction l generalizing h with
  | nil => simp
  | cons i l ih => simpa using ih (h.stackFrame p i)

theorem Hub.foldl_stackFrame_ctx (h : Hub) (p : PortId) (l : List FrameId) (j : FrameId) :
    (l.foldl (fun g i => g.stackFrame p i) h).ctx j =
      if j ∈ l then (h.ctx j).map (fun c => { c with place := .stacked p }) else h.ctx j := by
  induction l generalizing h with
  | nil => simp
  | cons i l ih =>
    simp only [List.foldl_cons, ih, Hub.stackFrame_ctx, List.mem_cons]
    by_cases e : j = i <;> by_cases m : j ∈ l <;> simp_all [Function.comp_def]

/-- What a save leaves with a port: the port's hold set is on its stack (R116). -/
theorem Hub.saveHold_port (h : Hub) (p q : PortId) :
    (h.saveHold p).port q =
      if q = p then
        { h.port p with hold := [], stack := savedEntries (h.port p).hold ++ (h.port p).stack }
      else h.port q := by
  simp only [Hub.saveHold, Hub.updPort_port, (h.foldl_stackFrame_rest p _).1]

theorem Hub.beginService_port (h : Hub) (p : PortId) (n : Urgent) (q : PortId) :
    (h.beginService p n).port q = if q = n.requester then (((h.saveHold p).setLatch p (.serving n)).port q).told
      [.preemptTaken p n.cls] else ((h.saveHold p).setLatch p (.serving n)).port q := by
  simp only [Hub.beginService, Hub.post_port]
  split
  · next e => rw [e]
  · rfl

theorem Hub.setLatch_port (h : Hub) (p : PortId) (l : Latch) (q : PortId) :
    (h.setLatch p l).port q = if q = p then { h.port p with latch := l } else h.port q := by
  simp [Hub.setLatch]

/-! ### Waits ended (R83) -/

theorem Hub.endWait_port (h : Hub) (p : PortId) (r : ClaimRec) (q : PortId) :
    (h.endWait p r).port q = if q = p then { h.port p with claim := r } else h.port q :=
  (Hub.with_waitList_port _ _ _).trans (Hub.updPort_port ..)

/-! ### Bands (R31) -/

@[simp] theorem Hub.setBand_rest (h : Hub) (e : Prio) (l : List FrameId) :
    (∀ q, (h.setBand e l).port q = h.port q) ∧ (∀ k, (h.setBand e l).cls k = h.cls k) ∧
    (h.setBand e l).memory = h.memory ∧ (h.setBand e l).waitList = h.waitList ∧
    (h.setBand e l).isolation = h.isolation := by
  induction l generalizing h with
  | nil => simp [Hub.setBand]
  | cons i l ih => unfold Hub.setBand; split <;> simp [ih]

theorem Hub.setBand_ctx (h : Hub) (e : Prio) (l : List FrameId) (j : FrameId) :
    (h.setBand e l).ctx j =
      if j ∈ l then (h.ctx j).map (fun c => { c with place := .queued e 0 }) else h.ctx j := by
  induction l generalizing h with
  | nil => simp [Hub.setBand]
  | cons i l ih =>
    unfold Hub.setBand
    split
    · simp only [ih, Hub.ctx_putCtx, List.mem_cons]
      by_cases e : j = i <;> by_cases m : j ∈ l <;> simp_all
    · simp only [ih, List.mem_cons]
      by_cases e : j = i <;> by_cases m : j ∈ l <;> simp_all

/-! ### Words stored (R16, R19) -/

@[simp] theorem Hub.storeWord_rest (h : Hub) (c : Context) (k : Nat) (v : Word) :
    (∀ j, (h.storeWord c k v).frame j = h.frame j) ∧ (∀ l, (h.storeWord c k v).cls l = h.cls l) ∧
    (∀ p, (h.storeWord c k v).port p = h.port p) ∧ (h.storeWord c k v).waitList = h.waitList ∧
    (h.storeWord c k v).isolation = h.isolation := by
  unfold Hub.storeWord
  split
  · simp
  · exact ⟨fun _ => rfl, fun _ => rfl, fun _ => rfl, rfl, rfl⟩

theorem Hub.storeWords_rest (h : Hub) (c : Context) (k : Nat) (vs : List Word) :
    (∀ j, (h.storeWords c k vs).frame j = h.frame j) ∧ (∀ l, (h.storeWords c k vs).cls l = h.cls l) ∧
    (∀ p, (h.storeWords c k vs).port p = h.port p) ∧ (h.storeWords c k vs).waitList = h.waitList ∧
    (h.storeWords c k vs).isolation = h.isolation := by
  induction vs generalizing h k with
  | nil => simp [Hub.storeWords]
  | cons v vs ih => simpa [Hub.storeWords] using ih (h.storeWord c k v) (k + 1)

/-- A write leaves each block in the free set or out of it. -/
theorem Block.rewrite_free (x : Block) (used : BitVec 8) (pos : Nat) : (x.rewrite used pos).free = x.free := by
  simp only [Block.rewrite]; repeat' split
  all_goals rfl

theorem Hub.storeWord_free (h : Hub) (c : Context) (k : Nat) (v : Word) (b : BlockId) :
    ((h.storeWord c k v).block b).free = (h.block b).free := by
  unfold Hub.storeWord
  split
  · rfl
  · rw [Hub.with_memory_block, Hub.setBlock_block]
    split
    · next e => rw [Block.rewrite_free, e]
    · rfl

theorem Hub.storeWords_free (h : Hub) (c : Context) (k : Nat) (vs : List Word) (b : BlockId) :
    ((h.storeWords c k vs).block b).free = (h.block b).free := by
  induction vs generalizing h k with
  | nil => rfl
  | cons v vs ih => exact (ih _ _).trans (Hub.storeWord_free ..)

theorem Hub.storeWords_wf {h : Hub} (hm : h.memory.wf) (c : Context) (k : Nat) (vs : List Word) :
    (h.storeWords c k vs).memory.wf := by
  induction vs generalizing h k with
  | nil => exact hm
  | cons v vs ih =>
    refine ih ?_ (k + 1)
    unfold Hub.storeWord
    split
    · exact hm
    · exact Memory.write_wf hm (place_lt _ _) v

end Sys2Proof.Machine
end

section
/-!
What a command can do to the hub, said once: the deeds of the requests and of the hub's own events, with the conditions
under which they are done. `exec_cases` takes every command but hub reset apart into deeds, the opening of a park, or a
write of the Image Store, and `step_keeps` is the induction every law of the hub is proved by.
-/
namespace Sys2Proof.Machine

/-! ### The checks before a request (R128, R6, R178) -/

section Checks
variable {P : Hub → Prop} {h : Hub}

/-- A request behind its session check leaves the hub alone, or passes the check and does what its body does. -/
theorem Hub.session_hub {k : ReqKind} {p : PortId} {body : Hub × Reply} (refused : P h)
    (taken : sessionRefusal k (h.port p).state = none → P body.1) : P (h.session k p body).1 := by
  unfold Hub.session
  split
  · exact refused
  · next e => exact taken e

theorem Hub.form_hub {α : Type} {args : Option α} {body : α → Hub × Reply} (refused : P h)
    (taken : ∀ a, args = some a → P (body a).1) : P (h.form args body).1 := by
  cases args with
  | none => exact refused
  | some a => exact taken a rfl

theorem Hub.handled_hub {α : Type} {accepts : Place → Bool} {payload : List Word}
    {args : Word → List Word → Option α} {body : FrameId → Context → α → Hub × Reply} (refused : P h)
    (taken : ∀ i c w rest a, h.ctx i = some c → accepts c.place = true → args w rest = some a → P (body i c a).1) :
    P (h.handled accepts payload args body).1 := by
  unfold Hub.handled
  split
  · exact refused
  · split
    · exact refused
    · next hf =>
      obtain ⟨-, -, hc, ha⟩ := Hub.find_eq_some hf
      exact Hub.form_hub refused fun a e => taken _ _ _ _ a hc ha e

end Checks

/-- The requests the hub takes from a port that is not ONLINE are the four of R128. -/
theorem online_of_sessionRefusal {k : ReqKind} {h : Hub} {p : PortId}
    (e : sessionRefusal k (h.port p).state = none)
    (hk : k ≠ .join ∧ k ≠ .hubInfo ∧ k ≠ .status ∧ k ≠ .noticeRead) : h.online p = true := by
  obtain ⟨h1, h2, h3, h4⟩ := hk
  unfold Hub.online
  cases hx : (h.port p).state with
  | online n => rfl
  | offline => rw [hx] at e; cases k <;> simp_all [sessionRefusal]
  | fenced => rw [hx] at e; cases k <;> simp_all [sessionRefusal]

theorem Place.owner_of_isFillingOf {p : PortId} {x : Place} (h : x.isFillingOf p = true) : x.owner = some p := by
  cases x <;> simp_all [Place.isFillingOf, Place.owner]

theorem Place.owner_of_isHeldOf {p : PortId} {x : Place} (h : x.isHeldOf p = true) : x.owner = some p := by
  cases x <;> simp_all [Place.isHeldOf, Place.owner]

theorem Place.owner_of_isKeptOf {p : PortId} {x : Place} (h : x.isKeptOf p = true) : x.owner = some p := by
  cases x <;> simp_all [Place.isKeptOf, Place.owner]

theorem Hub.leaveFilling_eq_leaveOwner {h : Hub} {p : PortId} {i : FrameId} {c : Context}
    (e : c.place.isFillingOf p = true) : h.leaveFilling p i = h.leaveOwner i c := by
  unfold Hub.leaveOwner
  cases hp : c.place <;> simp_all [Place.isFillingOf]

theorem Hub.leaveHold_eq_leaveOwner {h : Hub} {p : PortId} {i : FrameId} {c : Context}
    (e : c.place.isHeldOf p = true) : h.leaveHold p i = h.leaveOwner i c := by
  unfold Hub.leaveOwner
  cases hp : c.place <;> simp_all [Place.isHeldOf]

/-! ### Control records that pass the validity check (R15) -/

/-- The validity of a stored control record: an affinity, and a resume mode it allows (R8, R11). -/
def Control.Legal (k : Control) : Prop := k.affinity ≠ 0#4 ∧ k.ResumeLegal

/-- A control record after field changes: the read-only fields are as before, and it is legal if it was (R14). -/
structure Control.Amends (c k : Control) : Prop where
  cls        : k.cls = c.cls
  waitMarker : k.waitMarker = c.waitMarker
  trap       : k.trap = c.trap
  legal      : c.Legal → k.Legal

theorem Control.Amends.refl (c : Control) : c.Amends c := ⟨rfl, rfl, rfl, id⟩

/-- What a control record that passes the check has from the request, and that it is legal. -/
structure RawControl.Passes (r : RawControl) (enabled : Bool) (k : Control) : Prop where
  enabled    : enabled = true
  cls        : k.cls = r.cls
  waitMarker : k.waitMarker = r.waitMarker
  trap       : trapOf r.trap = some k.trap
  legal      : k.Legal

theorem isSome_of_trapOf {t : Option RawTrap} {u : Option Trap} (h : trapOf t = some u) : u.isSome = t.isSome := by
  cases t with
  | none => cases h; rfl
  | some t =>
    obtain ⟨v, -, rfl⟩ := Option.map_eq_some_iff.mp (show t.check.map some = some u from h)
    rfl

theorem resumeLegal_of_resumeOf {n : Nat} {w t : Bool} {m : ResumeMode} (h : resumeOf n w t = some m) :
    (m = .wait → w = true) ∧ (m = .retry → t = true) := by
  unfold resumeOf at h
  split at h
  · cases h; simp
  · split at h
    · cases h; simp [*]
    · cases h
  · split at h
    · cases h; simp [*]
    · cases h
  · cases h

theorem RawControl.passes_of_check {r : RawControl} {enabled : Bool} {k : Control}
    (h : r.check enabled = some k) : r.Passes enabled k := by
  unfold RawControl.check at h
  split at h
  · cases h
  · next hv =>
    split at h
    · next b m t hb hm ht =>
      cases h
      simp only [Bool.or_eq_true, Bool.not_eq_true', beq_iff_eq, not_or, Bool.not_eq_false] at hv
      refine ⟨hv.1, rfl, rfl, ht, hv.2, ?_⟩
      rw [← isSome_of_trapOf ht] at hm
      exact resumeLegal_of_resumeOf hm
    · cases h

@[simp] theorem FieldChange.apply_rest (f : FieldChange) (r : RawControl) :
    (f.apply r).cls = r.cls ∧ (f.apply r).waitMarker = r.waitMarker ∧ (f.apply r).trap = r.trap := by
  unfold FieldChange.apply; repeat' split
  all_goals simp

theorem FieldChange.foldl_apply_rest (fs : List FieldChange) (r : RawControl) :
    (fs.foldl (fun r f => f.apply r) r).cls = r.cls ∧
      (fs.foldl (fun r f => f.apply r) r).waitMarker = r.waitMarker ∧
      (fs.foldl (fun r f => f.apply r) r).trap = r.trap := by
  induction fs generalizing r with
  | nil => simp
  | cons f fs ih => simpa using ih (f.apply r)

theorem trapOf_raw (t : Option Trap) : trapOf (t.map Trap.raw) = some t := by
  cases t with
  | none => rfl
  | some t => rcases t with ⟨_, _ | _, _ | _ | _⟩ <;> rfl

/-- Field changes that pass the check amend the control record they start from. -/
theorem Control.amends_of_check {c k : Control} {fs : List FieldChange} {enabled : Bool}
    (h : (fs.foldl (fun r f => f.apply r) c.raw).check enabled = some k) : c.Amends k := by
  obtain ⟨-, hcls, hmark, htrap, hlegal⟩ := RawControl.passes_of_check h
  obtain ⟨e1, e2, e3⟩ := FieldChange.foldl_apply_rest fs c.raw
  refine ⟨hcls.trans e1, hmark.trans e2, ?_, fun _ => hlegal⟩
  rw [e3, Control.raw, trapOf_raw] at htrap
  exact (Option.some.inj htrap).symm

/-! ### The deeds -/

/-- What a request or an event of the hub does behind the Host Ports, less the opening of a park and the writes of the
Image Store, under the conditions its rule sets. -/
inductive Hub.Deed (h : Hub) : Hub → Prop
  /-- JOIN (R130). -/
  | join {p : PortId} {t : Settings} (off : h.online p = false) (lease : inPeriod t.lease = true)
      (grace : zeroOrPeriod t.grace = true) : Deed h (h.beginSession p t)
  /-- LEAVE (R135). -/
  | leave {p : PortId} (on : h.online p = true) (may : (h.port p).mayLeave = true) : Deed h (h.endSession p)
  /-- SUBSCRIBE (R138). -/
  | subscribe {p : PortId} {m : ClassSet} (on : h.online p = true) : Deed h (h.setSubscription p m)
  /-- A request frame passes the link checks (R132). -/
  | restartLease {p : PortId} : Deed h (h.restartLease p)
  /-- A BREAK of a port that is not ONLINE (R146). -/
  | goOffline {p : PortId} (off : h.online p = false) :
      Deed h (h.updPort p (fun x => { x with state := .offline, notices := [] }))
  /-- An owned frame fails a check, under a check value that may be new (R20). -/
  | isolate {p : PortId} {i : FrameId} {c : Context} {check : BitVec 16} {r : IsoReason} (on : h.online p = true)
      (used : h.ctx i = some c) (owned : c.place.owner = some p) : Deed h (h.isolate i { c with check := check } r)
  /-- An owned frame is made available, under a check value that may be new (R50, R76, R78). -/
  | release {p : PortId} {i : FrameId} {c : Context} {check : BitVec 16} {cause : Cause} {passed : Option PortId}
      (on : h.online p = true) (used : h.ctx i = some c) (owned : c.place.owner = some p) :
      Deed h ((h.leaveOwner i { c with check := check }).makeAvailable i { c with check := check } cause passed).1
  /-- PARK_ABORT and RETIRE (R53, R79). -/
  | free {p : PortId} {i : FrameId} {c : Context} (on : h.online p = true) (used : h.ctx i = some c)
      (owned : c.place.owner = some p) : Deed h ((h.leaveOwner i c).freeFrame i c)
  /-- DISCARD (R169). -/
  | discard {i : FrameId} {c : Context} (used : h.ctx i = some c) (isolated : c.place.isIsolated = true) :
      Deed h ((h.leaveIsolation i).freeFrame i c)
  /-- EDIT (R74). -/
  | edit {p : PortId} {i : FrameId} {c : Context} {k : Control} (on : h.online p = true) (used : h.ctx i = some c)
      (owned : c.place.isKeptOf p = true) (amends : c.control.Amends k) : Deed h (h.putCtx i { c with control := k })
  /-- INSPECT of a damaged block, and a REPAIR that fails its check (R164, R167). -/
  | stayIsolated {i : FrameId} {c : Context} {k : Control} {check : BitVec 16} {r : IsoReason}
      (used : h.ctx i = some c) (isolated : c.place.isIsolated = true) (amends : c.control.Amends k) :
      Deed h (h.setReason i { c with control := k, check := check } r)
  /-- REPAIR (R168). -/
  | repair {i : FrameId} {c : Context} {k : Control} {check : BitVec 16} (used : h.ctx i = some c)
      (isolated : c.place.isIsolated = true) (amends : c.control.Amends k) :
      Deed h ((h.leaveIsolation i).makeAvailable i { c with control := k, check := check } .repaired none).1
  /-- The claim of a queued frame (R63). -/
  | claim {p : PortId} {i : FrameId} {c : Context} {k : ClassId} (on : h.online p = true)
      (room : (h.port p).holdCount < Config.holdMax) (queued : i ∈ (h.cls k).queue) (used : h.ctx i = some c)
      (allowed : c.allows p = true) : Deed h (h.claimFrame p i c)
  /-- CLAIM_WAIT with no frame to claim (R86). -/
  | wait {p : PortId} {m : ClassSet} {n : Nat} (on : h.online p = true) (mask : m ≠ 0#8) (time : waitPeriod n = true)
      (room : (h.port p).holdCount < Config.holdMax) (idle : (h.port p).claim = .none)
      (empty : h.claimBest p m = none) : Deed h (h.beginWait p m n)
  /-- The end of a wait without a frame (R90, R91, R94). -/
  | endWait {p : PortId} {r : ClaimRec} (ended : r = .none ∨ r = .expired) (on : h.online p = true ∨ r = .none ∨
      (h.port p).claim.isWaiting = true) : Deed h (h.endWait p r)
  /-- The result of a claim is read (R93, R94). -/
  | readClaim {p : PortId} (result : (h.port p).claim.isWaiting = false) : Deed h (h.setClaim p .none)
  /-- SUSPEND (R99). -/
  | suspend {p : PortId} {i : FrameId} {c : Context} (on : h.online p = true) (used : h.ctx i = some c)
      (held : c.place.isHeldOf p = true) (room : (h.port p).stack.length < Config.stackMax) :
      Deed h (h.pushVoluntary p i)
  /-- RESUME_TOP (R101). -/
  | resume {p : PortId} {e : StackEntry} {rest : List StackEntry} (on : h.online p = true)
      (top : (h.port p).stack = e :: rest) (tag : e.tag ≠ .preempt) (room : (h.port p).holdCount < Config.holdMax) :
      Deed h ((h.updPort p (fun x => { x with stack := rest })).resumeFrame p e.frame)
  /-- PREEMPT (R110). -/
  | preempt {p t : PortId} {k : ClassId} (other : t ≠ p) (on : h.online t = true) :
      Deed h (h.postUrgent t { requester := p, cls := k }).1
  /-- TAKE_PREEMPT before its claim (R116, R117). -/
  | takePreempt {p : PortId} {n : Urgent} {g : Option Nat} (on : h.online p = true)
      (latch : (h.port p).latch = .pending n g)
      (room : (h.port p).stack.length + (h.port p).hold.length ≤ Config.stackMax) : Deed h (h.beginService p n)
  /-- END_PREEMPT (R121, R122). -/
  | endPreempt {p : PortId} {v : Urgent} (on : h.online p = true)
      (latch : (h.port p).latch = .serving v ∨ ∃ n, (h.port p).latch = .servingPending v n)
      (held : (h.port p).hold = []) (flat : (h.port p).nested = false)
      (room : ((h.port p).claim.isWaiting && decide (Config.holdMax ≤ (h.port p).group.length) &&
        (h.port p).group.all (h.restorable p)) = false) : Deed h (h.endService p v).hub
  /-- NOTICE_READ (R155). -/
  | readNotices {p : PortId} {n : Nat} :
      Deed h (h.updPort p (fun x => { x with notices := (h.port p).notices.drop n }))
  /-- CLASS_SET (R34). -/
  | setClass {a : ClassSetArgs} (positive : 1 ≤ a.limit) (bounded : a.limit ≤ 64)
      (aging : zeroOrPeriod a.aging = true) (closed : a.enabled = false → (h.cls a.cls).population = 0)
      (fits : (h.cls a.cls).population ≤ a.limit) : Deed h (h.setClassRecord a)
  /-- A fence (R139 to R144). -/
  | fence {p : PortId} {why : FenceReason} (on : h.online p = true) : Deed h (h.fence p why)
  /-- GRACE_EXPIRY (R113). -/
  | lapse {p : PortId} {n : Urgent} (latch : (h.port p).latch = .pending n (some 0)) : Deed h (h.lapse p n)
  /-- AGING_PROMOTION (R31). -/
  | promote {k : ClassId} {b : Prio} : Deed h (h.promote k b)
  /-- The count of a tick (R29, R91, R112, R132). -/
  | tick : Deed h h.tick

/-- What a command does behind the Host Ports: deeds, one after the other. -/
abbrev Hub.Deeds : Hub → Hub → Prop := Relation.ReflTransGen Hub.Deed

theorem Hub.Deed.deeds {h g : Hub} (d : h.Deed g) : h.Deeds g := .single d

theorem Hub.Deeds.none {h : Hub} : h.Deeds h := Relation.ReflTransGen.refl

/-- PARK_OPEN (R42), under the conditions of R40. -/
inductive Hub.Opens (h : Hub) : Hub → Prop
  | park {p : PortId} {i : FrameId} {c : Control} {len : Nat} {check : BitVec 16} (on : h.online p = true)
      (enabled : (h.cls c.cls).enabled = true) (legal : c.Legal) (positive : 1 ≤ len) (short : len ≤ Config.imageMax)
      (filling : (h.port p).filling.length < Config.fillMax)
      (room : (h.cls c.cls).population < (h.cls c.cls).limit) (lowest : h.lowestFree = some i)
      (space : blocksFor len ≤ h.freeBlocks.length) : Opens h (h.openPark p i c len check)

/-- What writes the Image Store (R46, R71, R165, R19). -/
inductive Hub.Writes (h : Hub) : Hub → Prop
  /-- PARK_WRITE. -/
  | fill {p : PortId} {i : FrameId} {c : Context} {off : Nat} {ws : List Word} (on : h.online p = true)
      (used : h.ctx i = some c) (filling : c.place.isFillingOf p = true) (fits : off + ws.length ≤ c.len) :
      Writes h (h.fillWords p i c off ws)
  /-- WRITE_IMAGE. -/
  | modify {p : PortId} {i : FrameId} {c : Context} {off : Nat} {ws : List Word} (on : h.online p = true)
      (used : h.ctx i = some c) (held : c.place.isHeldOf p = true) :
      Writes h ((h.storeWords c off ws).putCtx i { c with place := .held p true })
  /-- ISOLATION_WRITE. -/
  | rewrite {i : FrameId} {c : Context} {off : Nat} {ws : List Word} (used : h.ctx i = some c)
      (isolated : c.place.isIsolated = true) : Writes h (h.storeWords c off ws)
  /-- FAULT. -/
  | strike {b : BlockId} {pos : Fin 8} {v : Word} : Writes h (h.strike b pos v)

/-- The commands that write the Image Store. -/
def WritesStore : Instr → Prop
  | .parkWrite _ _ _ => True
  | .writeImage _ _ _ => True
  | .isolationWrite _ _ _ => True
  | .fault _ _ _ => True
  | _ => False

/-! ### The requests by their deeds -/

section Requests
variable {h : Hub} {p : PortId} {i : FrameId} {c : Context}

theorem Hub.joinWith_deeds (t : Settings) : h.Deeds (h.joinWith p t).1 := by
  unfold Hub.joinWith
  split
  · exact .none
  · next off =>
    split
    · next ok =>
      obtain ⟨hl, hg⟩ := Bool.and_eq_true_iff.mp ok
      exact (Hub.Deed.join (Bool.eq_false_iff.mpr off) hl hg).deeds
    · exact .none

theorem Hub.settleChecked_deeds (on : h.online p = true) (used : h.ctx i = some c)
    (owned : c.place.owner = some p) (check : BitVec 16) (cause : Cause) :
    h.Deeds (h.settleChecked i { c with check := check } cause).1 := by
  unfold Hub.settleChecked
  split
  · exact (Hub.Deed.isolate on used owned).deeds
  · exact (Hub.Deed.release on used owned).deeds

theorem Hub.parkCloseWith_deeds (on : h.online p = true) (used : h.ctx i = some c)
    (owned : c.place.owner = some p) : h.Deeds (h.parkCloseWith i c).1 := by
  unfold Hub.parkCloseWith
  split
  · exact .none
  · exact Hub.settleChecked_deeds on used owned c.check .parked

theorem Hub.readImageWith_deeds (on : h.online p = true) (used : h.ctx i = some c)
    (owned : c.place.owner = some p) (a : Nat × Nat) : h.Deeds (h.readImageWith i c a).1 := by
  unfold Hub.readImageWith
  split
  · exact .none
  · split
    · exact (Hub.Deed.isolate (check := c.check) on used owned).deeds
    · exact .none

theorem Hub.editWith_deeds (on : h.online p = true) (used : h.ctx i = some c)
    (owned : c.place.isKeptOf p = true) (f : FieldChange) : h.Deeds (h.editWith i c f).1 := by
  unfold Hub.editWith
  split
  · exact .none
  · split
    · exact .none
    · split
      · exact .none
      · next k hk => exact (Hub.Deed.edit on used owned (Control.amends_of_check (fs := [f]) hk)).deeds

/-- An ONLINE port stays ONLINE while a frame is made available. -/
theorem Hub.makeAvailable_online (h : Hub) (i : FrameId) (c : Context) (cause : Cause) (passed : Option PortId)
    (p : PortId) : (h.makeAvailable i c cause passed).1.online p = h.online p := by
  unfold Hub.makeAvailable Hub.online
  split
  · next q _ =>
    obtain ⟨-, ports, -⟩ := h.grant_parts i { c with cause := some cause } q
    rw [ports]
    split
    · next e => rw [e]
    · rfl
  · simp only [Hub.enqueue]
    split
    · rw [Hub.postReady_port, (Port.told_rest ..).1]; rfl
    · rfl

theorem Hub.returnWith_deeds (on : h.online p = true) (used : h.ctx i = some c)
    (held : c.place.isHeldOf p = true) : h.Deeds (h.returnWith p i c).1 := by
  unfold Hub.returnWith
  split
  · exact .none
  · have hd : h.Deeds ((h.leaveHold p i).makeAvailable i c .returned (some p)).1 := by
      rw [Hub.leaveHold_eq_leaveOwner held]
      exact (Hub.Deed.release (check := c.check) on used (Place.owner_of_isHeldOf held)).deeds
    simp only [Hub.returnEndsWait]
    split
    · refine hd.tail (.endWait (.inr rfl) (.inl ?_))
      rw [Hub.makeAvailable_online, Hub.leaveHold_eq_leaveOwner held, Hub.leaveOwner_online]
      exact on
    · exact hd

theorem Hub.inspectWith_deeds (used : h.ctx i = some c) (isolated : c.place.isIsolated = true) (a : Nat × Nat) :
    h.Deeds (h.inspectWith i c a).1 := by
  unfold Hub.inspectWith
  split
  · exact .none
  · split
    · exact .none
    · split
      · exact (Hub.Deed.stayIsolated (check := c.check) used isolated (.refl _)).deeds
      · exact .none

theorem Hub.repairWith_deeds (used : h.ctx i = some c) (isolated : c.place.isIsolated = true) (a : RepairArgs) :
    h.Deeds (h.repairWith i c a).1 := by
  unfold Hub.repairWith
  split
  · exact .none
  · split
    · exact .none
    · split
      · exact .none
      · next k hk =>
        have ham := Control.amends_of_check hk
        unfold Hub.repairChecked
        split
        · exact (Hub.Deed.stayIsolated used isolated ham).deeds
        · exact (Hub.Deed.repair used isolated ham).deeds

/-- The frame a claim selects stands in a queue and allows the port. -/
theorem Hub.claimSelect_queued {m : ClassSet} (e : h.claimSelect p m = some i) :
    ∃ k, i ∈ (h.cls k).queue ∧ ∃ c, h.ctx i = some c ∧ c.allows p = true := by
  obtain ⟨b, -, hb⟩ := List.exists_of_findSome?_eq_some e
  obtain ⟨k, -, hk⟩ := List.exists_of_findSome?_eq_some hb
  split at hk
  · refine ⟨k, List.mem_of_find?_eq_some hk, ?_⟩
    have := List.find?_some hk
    unfold Hub.eligibleAt at this
    split at this
    · next c hc => exact ⟨c, hc, (Bool.and_eq_true_iff.mp this).1⟩
    · cases this
  · cases hk

/-- A claim that finds a frame is the claim of a queued one. -/
theorem Hub.claimBest_deed {m : ClassSet} {g : Hub} {ws : List Word} (on : h.online p = true)
    (room : (h.port p).holdCount < Config.holdMax) (e : h.claimBest p m = some (g, ws)) : h.Deed g := by
  unfold Hub.claimBest at e
  split at e
  · cases e
  · next i hi =>
    obtain ⟨k, hq, c, hc, hall⟩ := Hub.claimSelect_queued hi
    rw [hc] at e
    cases e
    exact .claim on room hq hc hall

theorem Hub.claimWith_deeds (on : h.online p = true) (m : ClassSet) : h.Deeds (h.claimWith p m).1 := by
  unfold Hub.claimWith
  split
  · exact .none
  · split
    · exact .none
    · next room =>
      split
      · exact .none
      · next hb => exact (Hub.claimBest_deed on (Nat.lt_of_not_le room) hb).deeds

theorem Hub.claimWaitWith_deeds (on : h.online p = true) (a : ClassSet × Nat) :
    h.Deeds (h.claimWaitWith p a).1 := by
  unfold Hub.claimWaitWith
  split
  · exact .none
  · next hv =>
    obtain ⟨hm, ht⟩ := not_or.mp hv
    split
    · exact .none
    · next room =>
      split
      · exact .none
      · next idle =>
        split
        · next hb => exact (Hub.claimBest_deed on (Nat.lt_of_not_le room) hb).deeds
        · next hb =>
          exact (Hub.Deed.wait on hm (by simpa using ht) (Nat.lt_of_not_le room) (by simpa using idle) hb).deeds

theorem Hub.claimResultNow_deeds : h.Deeds (h.claimResultNow p).1 := by
  unfold Hub.claimResultNow
  split
  · exact .none
  · next hw =>
    split
    · exact (Hub.Deed.endWait (.inr rfl) (.inr (.inr (by rw [hw]; rfl)))).deeds.tail
        (.readClaim (by rw [Hub.endWait_port, if_pos rfl]; rfl))
    · exact .none
  · next hw => exact (Hub.Deed.readClaim (by rw [hw]; rfl)).deeds
  · next hw => exact (Hub.Deed.readClaim (by rw [hw]; rfl)).deeds

theorem Hub.claimCancelNow_deeds : h.Deeds (h.claimCancelNow p).1 := by
  unfold Hub.claimCancelNow
  split
  · exact (Hub.Deed.endWait (.inl rfl) (.inr (.inl rfl))).deeds
  · next hw => exact (Hub.Deed.readClaim (by rw [hw]; rfl)).deeds
  · next hw => exact (Hub.Deed.readClaim (by rw [hw]; rfl)).deeds
  · exact .none

theorem Hub.suspendWith_deeds (on : h.online p = true) (used : h.ctx i = some c)
    (held : c.place.isHeldOf p = true) : h.Deeds (h.suspendWith p i).1 := by
  unfold Hub.suspendWith
  split
  · exact .none
  · next room => exact (Hub.Deed.suspend on used held (Nat.lt_of_not_le room)).deeds

theorem Hub.resumeTopNow_deeds (on : h.online p = true) : h.Deeds (h.resumeTopNow p).1 := by
  unfold Hub.resumeTopNow
  split
  · exact .none
  · next top =>
    split
    · exact .none
    · next tag =>
      split
      · exact .none
      · next room => exact (Hub.Deed.resume on top tag (Nat.lt_of_not_le room)).deeds

theorem Hub.preemptWith_deeds (a : PortId × ClassId) : h.Deeds (h.preemptWith p a).1 := by
  unfold Hub.preemptWith
  split
  · exact .none
  · next other =>
    split
    · exact .none
    · next on =>
      split
      · exact .none
      · exact (Hub.Deed.preempt other (by simpa using on)).deeds

/-- A port that takes its preemption stays ONLINE and holds nothing but its claim (R116). -/
theorem Hub.beginService_room (on : h.online p = true) (n : Urgent) :
    (h.beginService p n).online p = true ∧ ((h.beginService p n).port p).holdCount < Config.holdMax := by
  have hx : ((h.beginService p n).port p).state = (h.port p).state ∧ ((h.beginService p n).port p).hold = [] := by
    rw [Hub.beginService_port]
    split <;> simp [Hub.setLatch_port, Hub.saveHold_port]
  refine ⟨by rw [Hub.online, hx.1]; exact on, ?_⟩
  unfold Port.holdCount
  rw [hx.2]
  split <;> simp

theorem Hub.takePreemptNow_deeds (on : h.online p = true) : h.Deeds (h.takePreemptNow p).1 := by
  unfold Hub.takePreemptNow
  split
  · next n g latch =>
    split
    · exact .none
    · next room =>
      have hd : h.Deeds (h.beginService p n) := (Hub.Deed.takePreempt on latch (Nat.le_of_not_lt room)).deeds
      obtain ⟨on', room'⟩ := Hub.beginService_room on n
      dsimp only
      split
      · next hb => exact hd.tail (Hub.claimBest_deed on' room' hb)
      · exact hd
  · exact .none

theorem Hub.endPreemptWith_deeds (on : h.online p = true) {v : Urgent}
    (latch : (h.port p).latch = .serving v ∨ ∃ n, (h.port p).latch = .servingPending v n) :
    h.Deeds (h.endPreemptWith p v).1 := by
  unfold Hub.endPreemptWith
  dsimp only
  split
  · exact .none
  · next held =>
    split
    · exact .none
    · next flat =>
      split
      · exact .none
      · next room =>
        exact (Hub.Deed.endPreempt on latch (by simpa using held) (by simpa using flat)
          (Bool.eq_false_iff.mpr room)).deeds

theorem Hub.endPreemptNow_deeds (on : h.online p = true) : h.Deeds (h.endPreemptNow p).1 := by
  unfold Hub.endPreemptNow
  split
  · next latch => exact Hub.endPreemptWith_deeds on (.inl latch)
  · next latch => exact Hub.endPreemptWith_deeds on (.inr ⟨_, latch⟩)
  · exact .none

theorem Hub.noticeReadWith_deeds (n : Nat) : h.Deeds (h.noticeReadWith p n).1 := by
  unfold Hub.noticeReadWith
  split
  · exact .none
  · exact Hub.Deed.readNotices.deeds

theorem Hub.classSetWith_deeds (a : ClassSetArgs) : h.Deeds (h.classSetWith a).1 := by
  unfold Hub.classSetWith
  split
  · exact .none
  · next hv =>
    simp only [not_or, Nat.not_lt, Bool.not_eq_false] at hv
    obtain ⟨positive, bounded, aging⟩ := hv
    split
    · exact .none
    · next closed =>
      split
      · exact .none
      · next fits =>
        exact (Hub.Deed.setClass positive bounded aging (fun e => by simpa [e] using closed)
          (Nat.le_of_not_lt fits)).deeds

/-- PARK_OPEN leaves the hub alone or opens a park. -/
theorem Hub.parkOpenWith_opens (on : h.online p = true) (a : ParkOpenArgs) :
    (h.parkOpenWith p a).1 = h ∨ h.Opens (h.parkOpenWith p a).1 := by
  unfold Hub.parkOpenWith
  split
  · exact .inl rfl
  · next c hc =>
    obtain ⟨enabled, hcls, -, -, legal⟩ := RawControl.passes_of_check hc
    split
    · exact .inl rfl
    · next hlen =>
      obtain ⟨positive, short⟩ := not_or.mp hlen
      split
      · exact .inl rfl
      · next filling =>
        split
        · exact .inl rfl
        · next room =>
          split
          · exact .inl rfl
          · next i lowest =>
            split
            · exact .inl rfl
            · next space =>
              exact .inr (.park on (by rw [hcls]; exact enabled) legal (Nat.le_of_not_lt positive)
                (Nat.le_of_not_lt short) (Nat.lt_of_not_le filling) (Nat.lt_of_not_le room) lowest
                (Nat.le_of_not_lt space))

theorem Hub.parkWriteWith_writes (on : h.online p = true) (used : h.ctx i = some c)
    (filling : c.place.isFillingOf p = true) (a : Nat × List Word) :
    (h.parkWriteWith p i c a).1 = h ∨ h.Writes (h.parkWriteWith p i c a).1 := by
  unfold Hub.parkWriteWith
  split
  · exact .inl rfl
  · split
    · exact .inl rfl
    · next fits => exact .inr (.fill on used filling (Nat.le_of_not_lt fits))

theorem Hub.writeImageWith_writes (on : h.online p = true) (used : h.ctx i = some c)
    (held : c.place.isHeldOf p = true) (a : Nat × List Word) :
    (h.writeImageWith p i c a).1 = h ∨ h.Writes (h.writeImageWith p i c a).1 := by
  unfold Hub.writeImageWith
  split
  · exact .inl rfl
  · exact .inr (.modify on used held)

theorem Hub.isolationWriteWith_writes (used : h.ctx i = some c) (isolated : c.place.isIsolated = true)
    (a : Nat × List Word) :
    (h.isolationWriteWith c a).1 = h ∨ h.Writes (h.isolationWriteWith c a).1 := by
  unfold Hub.isolationWriteWith
  split
  · exact .inl rfl
  · exact .inr (.rewrite used isolated)

end Requests

/-! ### Every command by its deeds -/

/-- What a command does behind the Host Ports: deeds, the opening of a park, or, for the commands that write, a write
of the Image Store. -/
inductive Hub.Changes (writes : Prop) (h g : Hub) : Prop
  | deeds (d : h.Deeds g)
  | opens (o : h.Opens g)
  | writes (w : writes) (d : h.Writes g)

theorem Hub.Changes.none {w : Prop} {h : Hub} : h.Changes w h := .deeds .none

/-- The body of every request by its deeds. -/
theorem request_changes (h : Hub) {i : Instr} {p : PortId} {r : Request} (e : requestOf i = some (p, r)) :
    h.Changes (WritesStore i) (bodyOf h i).1 := by
  have opened : ∀ {g : Hub}, g = h ∨ h.Opens g → h.Changes (WritesStore i) g :=
    Or.rec (fun e => e ▸ .none) .opens
  have written : ∀ {g : Hub}, WritesStore i → g = h ∨ h.Writes g → h.Changes (WritesStore i) g :=
    fun w => Or.rec (fun e => e ▸ .none) (.writes w)
  cases i
  case join => exact Hub.session_hub .none fun _ => Hub.form_hub .none fun t _ => .deeds (Hub.joinWith_deeds t)
  case leave =>
    refine Hub.session_hub .none fun hs => Hub.form_hub .none fun _ _ => ?_
    split
    · next may => exact .deeds (Hub.Deed.leave (online_of_sessionRefusal hs (by decide)) may).deeds
    · exact .none
  case renew => exact Hub.session_hub .none fun _ => Hub.form_hub .none fun _ _ => .none
  case status => exact Hub.session_hub .none fun _ => Hub.form_hub .none fun _ _ => .none
  case hubInfo => exact Hub.session_hub .none fun _ => Hub.form_hub .none fun _ _ => .none
  case subscribe =>
    exact Hub.session_hub .none fun hs => Hub.form_hub .none fun _ _ =>
      .deeds (Hub.Deed.subscribe (online_of_sessionRefusal hs (by decide))).deeds
  case parkOpen =>
    exact Hub.session_hub .none fun hs => Hub.form_hub .none fun a _ =>
      opened (Hub.parkOpenWith_opens (online_of_sessionRefusal hs (by decide)) a)
  case parkWrite =>
    exact Hub.session_hub .none fun hs => Hub.handled_hub .none fun _ _ _ _ a used own _ =>
      written trivial (Hub.parkWriteWith_writes (online_of_sessionRefusal hs (by decide)) used own a)
  case parkClose =>
    exact Hub.session_hub .none fun hs => Hub.handled_hub .none fun _ _ _ _ _ used own _ =>
      .deeds (Hub.parkCloseWith_deeds (online_of_sessionRefusal hs (by decide)) used (Place.owner_of_isFillingOf own))
  case parkAbort =>
    refine Hub.session_hub .none fun hs => Hub.handled_hub .none fun _ _ _ _ _ used own _ => ?_
    dsimp only
    rw [Hub.leaveFilling_eq_leaveOwner own]
    exact .deeds (Hub.Deed.free (online_of_sessionRefusal hs (by decide)) used (Place.owner_of_isFillingOf own)).deeds
  case claim =>
    exact Hub.session_hub .none fun hs => Hub.form_hub .none fun m _ =>
      .deeds (Hub.claimWith_deeds (online_of_sessionRefusal hs (by decide)) m)
  case readImage =>
    exact Hub.session_hub .none fun hs => Hub.handled_hub .none fun _ _ _ _ a used own _ =>
      .deeds (Hub.readImageWith_deeds (online_of_sessionRefusal hs (by decide)) used (Place.owner_of_isKeptOf own) a)
  case writeImage =>
    exact Hub.session_hub .none fun hs => Hub.handled_hub .none fun _ _ _ _ a used own _ =>
      written trivial (Hub.writeImageWith_writes (online_of_sessionRefusal hs (by decide)) used own a)
  case edit =>
    exact Hub.session_hub .none fun hs => Hub.handled_hub .none fun _ _ _ _ f used own _ =>
      .deeds (Hub.editWith_deeds (online_of_sessionRefusal hs (by decide)) used own f)
  case returnFrame =>
    exact Hub.session_hub .none fun hs => Hub.handled_hub .none fun _ _ _ _ _ used own _ =>
      .deeds (Hub.returnWith_deeds (online_of_sessionRefusal hs (by decide)) used own)
  case repark =>
    exact Hub.session_hub .none fun hs => Hub.handled_hub .none fun _ _ _ _ check used own _ =>
      .deeds (Hub.settleChecked_deeds (online_of_sessionRefusal hs (by decide)) used (Place.owner_of_isHeldOf own)
        check .parked)
  case retire =>
    refine Hub.session_hub .none fun hs => Hub.handled_hub .none fun _ _ _ _ _ used own _ => ?_
    dsimp only
    rw [Hub.leaveHold_eq_leaveOwner own]
    exact .deeds (Hub.Deed.free (online_of_sessionRefusal hs (by decide)) used (Place.owner_of_isHeldOf own)).deeds
  case claimWait =>
    exact Hub.session_hub .none fun hs => Hub.form_hub .none fun a _ =>
      .deeds (Hub.claimWaitWith_deeds (online_of_sessionRefusal hs (by decide)) a)
  case claimResult =>
    exact Hub.session_hub .none fun _ => Hub.form_hub .none fun _ _ => .deeds Hub.claimResultNow_deeds
  case claimCancel =>
    exact Hub.session_hub .none fun _ => Hub.form_hub .none fun _ _ => .deeds Hub.claimCancelNow_deeds
  case suspend =>
    exact Hub.session_hub .none fun hs => Hub.handled_hub .none fun _ _ _ _ _ used own _ =>
      .deeds (Hub.suspendWith_deeds (online_of_sessionRefusal hs (by decide)) used own)
  case resumeTop =>
    exact Hub.session_hub .none fun hs => Hub.form_hub .none fun _ _ =>
      .deeds (Hub.resumeTopNow_deeds (online_of_sessionRefusal hs (by decide)))
  case preempt =>
    exact Hub.session_hub .none fun _ => Hub.form_hub .none fun a _ => .deeds (Hub.preemptWith_deeds a)
  case takePreempt =>
    exact Hub.session_hub .none fun hs => Hub.form_hub .none fun _ _ =>
      .deeds (Hub.takePreemptNow_deeds (online_of_sessionRefusal hs (by decide)))
  case endPreempt =>
    exact Hub.session_hub .none fun hs => Hub.form_hub .none fun _ _ =>
      .deeds (Hub.endPreemptNow_deeds (online_of_sessionRefusal hs (by decide)))
  case isolationList => exact Hub.session_hub .none fun _ => Hub.form_hub .none fun _ _ => .none
  case inspect =>
    exact Hub.session_hub .none fun _ => Hub.handled_hub .none fun _ _ _ _ a used own _ =>
      .deeds (Hub.inspectWith_deeds used own a)
  case isolationWrite =>
    exact Hub.session_hub .none fun _ => Hub.handled_hub .none fun _ _ _ _ a used own _ =>
      written trivial (Hub.isolationWriteWith_writes used own a)
  case repair =>
    exact Hub.session_hub .none fun _ => Hub.handled_hub .none fun _ _ _ _ a used own _ =>
      .deeds (Hub.repairWith_deeds used own a)
  case discard =>
    exact Hub.session_hub .none fun _ => Hub.handled_hub .none fun _ _ _ _ _ used own _ =>
      .deeds (Hub.Deed.discard used own).deeds
  case noticeRead =>
    exact Hub.session_hub .none fun _ => Hub.form_hub .none fun n _ => .deeds (Hub.noticeReadWith_deeds n.toNat)
  case classSet =>
    exact Hub.session_hub .none fun _ => Hub.form_hub .none fun a _ => .deeds (Hub.classSetWith_deeds a)
  case classGet => exact Hub.session_hub .none fun _ => Hub.form_hub .none fun _ _ => .none
  all_goals cases e

/-! ### The link and the events by their deeds -/

section Events
variable (s : State) (p : PortId)

theorem State.endWindow_hub (n : Nat) : (s.endWindow p n).hub = s.hub := by
  unfold State.endWindow; repeat' split
  all_goals rfl

theorem State.breakPort_deeds : s.hub.Deeds (s.breakPort p).hub := by
  unfold State.breakPort
  dsimp only
  split
  · next on => exact (Hub.Deed.fence on).deeds
  · next off => exact (Hub.Deed.goOffline (Bool.eq_false_iff.mpr off)).deeds

theorem State.acceptFrame_hub (header trailer : Word) (payload : List Word) :
    (s.acceptFrame p header trailer payload).hub = s.hub := by
  unfold State.acceptFrame; split <;> rfl

/-- A frame that passes the link checks restarts the lease, whatever the replay cache then answers (R132). -/
theorem State.checkedFrame_hub (header trailer : Word) (payload : List Word) :
    (s.checkedFrame p header trailer payload).hub = s.hub.restartLease p := by
  unfold State.checkedFrame
  dsimp only
  split
  · split
    · split <;> rfl
    · exact State.acceptFrame_hub ..
  · exact State.acceptFrame_hub ..

theorem State.receive_deeds (header : Word) (rest : List Word) : s.hub.Deeds (s.receive p header rest).hub := by
  unfold State.receive State.linkCheck
  dsimp only
  split
  · exact .none
  · split
    · exact .none
    · split
      · exact .none
      · split
        · exact .none
        · rw [State.checkedFrame_hub]
          exact Hub.Deed.restartLease.deeds

theorem State.window_deeds (hsi : List Word) : s.hub.Deeds (s.window p hsi).hub := by
  unfold State.window
  dsimp only
  split
  · rw [State.endWindow_hub]
    exact .none
  · split
    · exact State.breakPort_deeds (s.sendWindow p hsi.length) p
    · exact State.receive_deeds (s.sendWindow p hsi.length) p _ _

theorem Port.isOnline_of_leaseDue {x : Port} (h : x.leaseDue = true) : x.state.isOnline = true := by
  rw [show x.state = .online 0 by simpa [Port.leaseDue] using h]; rfl

theorem State.expireLease_deeds : s.hub.Deeds (s.expireLease p).hub := by
  unfold State.expireLease
  split
  · next due => exact (Hub.Deed.fence (Port.isOnline_of_leaseDue due)).deeds
  · exact .none

theorem Port.isWaiting_of_waitDue {x : Port} (h : x.waitDue = true) : x.claim.isWaiting = true := by
  unfold Port.waitDue at h
  cases hc : x.claim <;> simp_all [ClaimRec.isWaiting]

theorem State.expireWait_deeds : s.hub.Deeds (s.expireWait p).hub := by
  unfold State.expireWait
  split
  · next due => exact (Hub.Deed.endWait (.inr rfl) (.inr (.inr (Port.isWaiting_of_waitDue due)))).deeds
  · exact .none

theorem State.expireGrace_deeds : s.hub.Deeds (s.expireGrace p).hub := by
  unfold State.expireGrace
  split
  · next latch => exact (Hub.Deed.lapse latch).deeds
  · exact .none

theorem State.promoteBand_deeds (k : ClassId) (b : Prio) : s.hub.Deeds (s.promoteBand k b).hub :=
  Hub.Deed.promote.deeds

/-- Steps that each do deeds do deeds one after the other. -/
theorem foldl_deeds {α : Type} {f : State → α → State} (hf : ∀ (s : State) a, s.hub.Deeds (f s a).hub) (l : List α) :
    s.hub.Deeds (l.foldl f s).hub := by
  induction l generalizing s with
  | nil => exact .none
  | cons a l ih => exact (hf s a).trans (ih (f s a))

theorem State.takeDue_deeds : s.hub.Deeds s.takeDue.hub := by
  have promotions := foldl_deeds s (fun (s : State) k => (s.promoteBand_deeds k 2).trans
    (((s.promoteBand k 2).promoteBand_deeds k 1).trans (((s.promoteBand k 2).promoteBand k 1).promoteBand_deeds k 0)))
    allClasses
  exact promotions.trans ((foldl_deeds _ State.expireWait_deeds _).trans
    ((foldl_deeds _ State.expireGrace_deeds _).trans (foldl_deeds _ State.expireLease_deeds _)))

end Events

/-- The admission of a request leaves the hub alone, or does what its body does. -/
theorem State.admission_hub {s t : State} {p : PortId} {r : Request} {body : Hub × Reply}
    (e : s.admission p r body = .next t) : t.hub = s.hub ∨ t.hub = body.1 := by
  unfold State.admission at e
  split at e
  · cases e; exact .inr rfl
  · cases e; exact .inl rfl

/-- Every command but hub reset does deeds, opens a park, or, where it is one of those that write, writes the Image
Store. -/
theorem exec_changes {i : Instr} {s t : State} (e : exec i s = .next t) (hi : i ≠ .hubReset) :
    s.hub.Changes (WritesStore i) t.hub := by
  cases hr : requestOf i with
  | some x =>
    obtain ⟨p, r⟩ := x
    rw [exec_request hr] at e
    rcases State.admission_hub e with h | h
    · rw [h]; exact .none
    · rw [h]; exact request_changes s.hub hr
  | none =>
    cases i <;> simp only [requestOf, reduceCtorEq] at hr
    case requestFrame p hsi =>
      simp only [exec, execRequestFrame] at e
      split at e <;> cases e
      · exact .deeds (State.window_deeds ..)
      · exact .none
    case readWindow p n =>
      simp only [exec, execReadWindow] at e
      split at e <;> cases e
      · rw [State.endWindow_hub]; exact .none
      · exact .none
    case breakFrame p =>
      simp only [exec, execBreak] at e
      split at e <;> cases e
      · exact .deeds (State.breakPort_deeds (s.sendWindow p 1) p)
      · exact .none
    case hubReset => exact absurd rfl hi
    case hubReady => cases e; exact .none
    case timebaseTick =>
      simp only [exec, execTimebaseTick] at e
      split at e <;> cases e
      · exact .none
      · exact .deeds (s.takeDue_deeds.tail .tick)
    case leaseExpiry p => cases e; exact .deeds (s.expireLease_deeds p)
    case waitExpiry p => cases e; exact .deeds (s.expireWait_deeds p)
    case graceExpiry p => cases e; exact .deeds (s.expireGrace_deeds p)
    case agingPromotion k b => cases e; exact .deeds (s.promoteBand_deeds k b)
    case fault b pos v =>
      simp only [exec, execFault] at e
      split at e <;> cases e
      · exact .none
      · exact .writes trivial .strike

/-- A law of the hub that hub reset has, and that deeds, the opening of a park and the writes of the Image Store keep,
is kept by every step. -/
theorem step_keeps {Law : Hub → Prop} (reset : Law Hub.reset) (deed : ∀ {h g : Hub}, Law h → h.Deed g → Law g)
    (opens : ∀ {h g : Hub}, Law h → h.Opens g → Law g) (writes : ∀ {h g : Hub}, Law h → h.Writes g → Law g)
    {s t : State} (hs : Law s.hub) (e : step s = .next t) : Law t.hub := by
  unfold step at e
  split at e
  · cases e; exact hs
  · next i rest _ =>
    by_cases hi : i = .hubReset
    · subst hi; cases e; exact reset
    · rcases exec_changes e hi with d | o | ⟨-, w⟩
      · exact Relation.ReflTransGen.rec hs (fun _ d ih => deed ih d) d
      · exact opens hs o
      · exact writes hs w

end Sys2Proof.Machine
end

section
/-!
How the hub evolves under deeds: each frame in use keeps its fixed fields or is freed with its blocks, the ranges of
R1 to R13, R22, R82, R112 and R127 are kept, and no word of the Image Store changes. `Hub.Evolves` says it once, and
it composes, so that each operation evolves because its parts do.
-/
namespace Sys2Proof.Machine

/-! ### What evolves -/

/-- A class record within its ranges (R22). -/
def ClassRec.Legal (x : ClassRec) : Prop := 1 ≤ x.limit ∧ x.limit ≤ 64 ∧ zeroOrPeriod x.aging = true

/-- A port with its session, claim record and latch in their ranges (R82, R112, R127). -/
structure Port.Legal (x : Port) : Prop where
  session : x.SessionLegal
  claim   : x.claim.inRange = true
  latch   : x.latch.inRange = true

/-- A frame in use keeps its fixed fields (R7, R9, R11, R12) and its blocks, and its fields stay in their ranges. -/
structure Context.Keeps (c d : Context) : Prop where
  cls        : d.control.cls = c.control.cls
  origin     : d.origin = c.origin
  waitMarker : d.control.waitMarker = c.control.waitMarker
  trap       : d.control.trap = c.control.trap
  len        : d.len = c.len
  blocks     : d.blocks = c.blocks
  legal      : c.FieldsLegal → d.FieldsLegal

theorem Context.Keeps.refl (c : Context) : c.Keeps c := ⟨rfl, rfl, rfl, rfl, rfl, rfl, id⟩

theorem Context.Keeps.trans {a b c : Context} (x : a.Keeps b) (y : b.Keeps c) : a.Keeps c :=
  ⟨y.cls.trans x.cls, y.origin.trans x.origin, y.waitMarker.trans x.waitMarker, y.trap.trans x.trap,
    y.len.trans x.len, y.blocks.trans x.blocks, y.legal ∘ x.legal⟩

/-- A frame stays FREE, keeps its generation and its fixed fields, or is freed with the next generation (R5). -/
structure Frame.Evolves (f g : Frame) : Prop where
  unused : f.ctx = none → g = f
  used   : ∀ c, f.ctx = some c →
    (g.gen = f.gen ∧ ∃ d, g.ctx = some d ∧ c.Keeps d) ∨ g = { gen := nextGen f.gen, ctx := none }

theorem Frame.Evolves.refl (f : Frame) : f.Evolves f :=
  ⟨fun _ => rfl, fun c hc => .inl ⟨rfl, c, hc, .refl c⟩⟩

theorem Frame.Evolves.trans {a b c : Frame} (x : a.Evolves b) (y : b.Evolves c) : a.Evolves c := by
  refine ⟨fun h => ?_, fun k hk => ?_⟩
  · have hb := x.unused h
    rw [y.unused (by rw [hb, h]), hb]
  · rcases x.used k hk with ⟨hg, d, hd, hkd⟩ | hb
    · rcases y.used d hd with ⟨hg', d', hd', hkd'⟩ | hc
      · exact .inl ⟨hg'.trans hg, d', hd', hkd.trans hkd'⟩
      · exact .inr (by rw [hc, hg])
    · exact .inr (by rw [y.unused (by rw [hb]), hb])

/-- The hub evolves: its frames do, the blocks of the frames freed and no others rejoin the free set, what is in its
range stays so, and no word of the Image Store changes. -/
structure Hub.Evolves (h g : Hub) : Prop where
  frames  : ∀ j, (h.frame j).Evolves (g.frame j)
  blocks  : ∀ b, (g.block b).free = false ↔
    (h.block b).free = false ∧ ∀ j c, h.ctx j = some c → g.ctx j = none → b ∉ c.blocks
  classes : ∀ k, (h.cls k).Legal → (g.cls k).Legal
  ports   : ∀ p, (h.port p).Legal → (g.port p).Legal
  memory  : g.memory = h.memory

namespace Hub.Evolves

theorem refl (h : Hub) : h.Evolves h where
  frames j := .refl _
  blocks b := by
    refine ⟨fun e => ⟨e, fun j c hc hn => ?_⟩, And.left⟩
    rw [hc] at hn
    cases hn
  classes _ := id
  ports _ := id
  memory := rfl

/-- A frame in use after the hub has evolved was in use before, with the same blocks. -/
theorem ctx_some {h g : Hub} (x : h.Evolves g) {j : FrameId} {d : Context} (hd : g.ctx j = some d) :
    ∃ c, h.ctx j = some c ∧ c.Keeps d := by
  cases hc : h.ctx j with
  | none =>
    have := (x.frames j).unused hc
    rw [Hub.ctx, this] at hd
    exact absurd (hc.symm.trans hd) (by simp)
  | some c =>
    rcases (x.frames j).used c hc with ⟨-, d', hd', hk⟩ | hn
    · cases hd'.symm.trans hd
      exact ⟨c, rfl, hk⟩
    · rw [Hub.ctx, hn] at hd
      cases hd

theorem ctx_none {h g : Hub} (x : h.Evolves g) {j : FrameId} (hn : h.ctx j = none) : g.ctx j = none := by
  rw [Hub.ctx, (x.frames j).unused hn]
  exact hn

theorem trans {h g k : Hub} (x : h.Evolves g) (y : g.Evolves k) : h.Evolves k where
  frames j := (x.frames j).trans (y.frames j)
  blocks b := by
    rw [y.blocks b, x.blocks b, and_assoc]
    refine and_congr_right fun _ => ⟨fun ⟨h1, h2⟩ j c hc hn => ?_, fun h1 => ⟨fun j c hc hn => ?_, fun j d hd hn => ?_⟩⟩
    · cases hg : g.ctx j with
      | none => exact h1 j c hc hg
      | some d =>
        obtain ⟨c', hc', hk⟩ := x.ctx_some hg
        cases hc'.symm.trans hc
        rw [← hk.blocks]
        exact h2 j d hg hn
    · exact h1 j c hc (y.ctx_none hn)
    · obtain ⟨c, hc, hk⟩ := x.ctx_some hd
      rw [hk.blocks]
      exact h1 j c hc hn
  classes p := y.classes p ∘ x.classes p
  ports p := y.ports p ∘ x.ports p
  memory := y.memory.trans x.memory

/-- Where every frame that is FREE was FREE before, the free set stands as it was. -/
theorem of_frames {h g : Hub} (frames : ∀ j, (h.frame j).Evolves (g.frame j))
    (kept : ∀ j c, h.ctx j = some c → g.ctx j ≠ none) (blocks : ∀ b, g.block b = h.block b)
    (classes : ∀ k, (h.cls k).Legal → (g.cls k).Legal) (ports : ∀ p, (h.port p).Legal → (g.port p).Legal)
    (memory : g.memory = h.memory) : h.Evolves g where
  frames := frames
  blocks b := by
    rw [blocks b]
    exact ⟨fun e => ⟨e, fun j c hc hn => absurd hn (kept j c hc)⟩, And.left⟩
  classes := classes
  ports := ports
  memory := memory

/-- Where no frame and no block changes, only classes and ports have to stay legal. -/
theorem of_sameFrames {h g : Hub} (frames : ∀ j, g.frame j = h.frame j) (blocks : ∀ b, g.block b = h.block b)
    (classes : ∀ k, (h.cls k).Legal → (g.cls k).Legal) (ports : ∀ p, (h.port p).Legal → (g.port p).Legal)
    (memory : g.memory = h.memory) : h.Evolves g :=
  of_frames (fun j => by rw [frames j]; exact .refl _)
    (fun j c hc => by rw [Hub.ctx, frames j, ← Hub.ctx, hc]; exact Option.some_ne_none c) blocks classes ports memory

/-- Operations that each let the hub evolve do so one after the other. -/
theorem foldl {α : Type} {f : Hub → α → Hub} (hf : ∀ (g : Hub) a, g.Evolves (f g a)) (h : Hub) (l : List α) :
    h.Evolves (l.foldl f h) := by
  induction l generalizing h with
  | nil => exact .refl h
  | cons a l ih => exact (hf h a).trans (ih (f h a))

end Hub.Evolves

/-! ### The writes of the hub's parts -/

section Parts
variable (h : Hub)

theorem Hub.updPort_evolves (p : PortId) {f : Port → Port} (hf : ∀ x : Port, x.Legal → (f x).Legal) :
    h.Evolves (h.updPort p f) :=
  .of_sameFrames (fun _ => rfl) (fun _ => rfl) (fun _ => id)
    (fun q hq => by
      rw [Hub.updPort_port]
      split
      · next e => subst e; exact hf _ hq
      · exact hq) rfl

theorem Hub.updClass_evolves (k : ClassId) {f : ClassRec → ClassRec}
    (hf : ∀ x : ClassRec, x.Legal → (f x).Legal) : h.Evolves (h.updClass k f) :=
  .of_sameFrames (fun _ => rfl) (fun _ => rfl)
    (fun l hl => by
      rw [Hub.updClass_cls]
      split
      · next e => subst e; exact hf _ hl
      · exact hl) (fun _ => id) rfl

theorem Hub.with_waitList_evolves (l : List PortId) : h.Evolves { h with waitList := l } :=
  .of_sameFrames (fun _ => rfl) (fun _ => rfl) (fun _ => id) (fun _ => id) rfl

theorem Hub.with_isolation_evolves (l : List FrameId) : h.Evolves { h with isolation := l } :=
  .of_sameFrames (fun _ => rfl) (fun _ => rfl) (fun _ => id) (fun _ => id) rfl

variable {h} {i : FrameId} {c : Context}

/-- A frame in use whose fields are replaced by fields that keep the fixed ones. -/
theorem Frame.evolves_of_keeps {f : Frame} {d : Context} (hc : f.ctx = some c) (hk : c.Keeps d) :
    f.Evolves { f with ctx := some d } :=
  ⟨fun hn => absurd (hn.symm.trans hc) (by simp),
    fun _ hc' => .inl ⟨rfl, d, rfl, Option.some.inj (hc.symm.trans hc') ▸ hk⟩⟩

theorem Hub.putCtx_evolves {d : Context} (hc : h.ctx i = some c) (hk : c.Keeps d) : h.Evolves (h.putCtx i d) := by
  refine .of_frames (fun j => ?_) (fun j c' hc' => ?_) (fun _ => rfl) (fun _ => id) (fun _ => id) rfl
  · rw [Hub.putCtx_frame]
    split
    · next e => subst e; exact Frame.evolves_of_keeps hc hk
    · exact .refl _
  · rw [Hub.ctx_putCtx]
    split
    · exact Option.some_ne_none _
    · rw [hc']; exact Option.some_ne_none _

/-- A frame freed gives its blocks back and advances its generation (R18). -/
theorem Hub.freeFrame_evolves (hc : h.ctx i = some c) : h.Evolves (h.freeFrame i c) where
  frames j := by
    rw [Hub.freeFrame_frame]
    split
    · next e =>
      subst e
      exact ⟨fun hn => absurd (hn.symm.trans hc) (by simp), fun _ _ => .inr rfl⟩
    · exact .refl _
  blocks b := by
    have freed : (∀ j d, h.ctx j = some d → (h.freeFrame i c).ctx j = none → b ∉ d.blocks) ↔ b ∉ c.blocks := by
      refine ⟨fun hf => hf i c hc (by rw [Hub.freeFrame_ctx, if_pos rfl]), fun hb j d hd hn => ?_⟩
      rw [Hub.freeFrame_ctx] at hn
      split at hn
      · next e => subst e; cases hd.symm.trans hc; exact hb
      · rw [hd] at hn; cases hn
    rw [freed, Hub.freeFrame_block]
    split
    · next hb => simp [hb]
    · next hb => simp [hb]
  classes k hk := by
    rw [Hub.freeFrame_cls]
    split
    · exact hk
    · exact hk
  ports p := by rw [(Hub.freeFrame_rest ..).1]; exact id
  memory := (Hub.freeFrame_rest ..).2.1

end Parts

/-! ### Fields that may change while a frame is in use -/

/-- A frame in use takes a new place, with its cause and its check: the fill pointer and the waited time of the place
must stand in their ranges. -/
theorem Context.keeps_place (c : Context) {x : Place} (fill : c.FieldsLegal → x.fill ≤ c.len)
    (waited : c.FieldsLegal → x.waited ≤ Config.periodMax) (cause : Option Cause) (check : BitVec 16) :
    c.Keeps { c with place := x, cause := cause, check := check } where
  cls := rfl
  origin := rfl
  waitMarker := rfl
  trap := rfl
  len := rfl
  blocks := rfl
  legal hl := by
    obtain ⟨h1, h2, h3, h4, -, -⟩ := id hl
    exact ⟨h1, h2, h3, h4, fill hl, waited hl⟩

/-- The places without a fill pointer and a waited time above 0. -/
theorem Context.keeps_fresh (c : Context) {x : Place} (fill : x.fill = 0) (waited : x.waited = 0)
    (cause : Option Cause) (check : BitVec 16) : c.Keeps { c with place := x, cause := cause, check := check } :=
  c.keeps_place (fun _ => fill ▸ Nat.zero_le _) (fun _ => waited ▸ Nat.zero_le _) cause check

/-- A frame in use takes an amended control record, and a new check. -/
theorem Context.keeps_control {c : Context} {k : Control} (hk : c.control.Amends k) (check : BitVec 16) :
    c.Keeps { c with control := k, check := check } where
  cls := hk.cls
  origin := rfl
  waitMarker := hk.waitMarker
  trap := hk.trap
  len := rfl
  blocks := rfl
  legal hl := by
    obtain ⟨h1, h2, h3, h4, h5, h6⟩ := hl
    obtain ⟨k1, k2⟩ := hk.legal ⟨h1, h2⟩
    exact ⟨k1, k2, h3, h4, h5, h6⟩

theorem Context.keeps_check (c : Context) (check : BitVec 16) : c.Keeps { c with check := check } :=
  Context.keeps_control (.refl _) check

theorem Context.keeps_cause (c : Context) (cause : Option Cause) : c.Keeps { c with cause := cause } :=
  ⟨rfl, rfl, rfl, rfl, rfl, rfl, id⟩

/-! ### The shared operations -/

section Operations
variable {h : Hub} {i : FrameId} {c d : Context}

/-- A port that keeps its session and its records stays legal. -/
theorem Port.Legal.congr {x y : Port} (hx : x.Legal) (state : y.state = x.state) (settings : y.settings = x.settings)
    (claim : y.claim = x.claim) (latch : y.latch = x.latch) : y.Legal := by
  obtain ⟨h1, h2, h3⟩ := hx
  refine ⟨?_, claim ▸ h2, latch ▸ h3⟩
  unfold Port.SessionLegal
  rw [state, settings]
  exact h1

theorem Port.Legal.withClaim {x : Port} (hx : x.Legal) {r : ClaimRec} (hr : r.inRange = true) :
    Port.Legal { x with claim := r } := ⟨hx.session, hr, hx.latch⟩

theorem Port.Legal.withLatch {x : Port} (hx : x.Legal) {l : Latch} (hl : l.inRange = true) :
    Port.Legal { x with latch := l } := ⟨hx.session, hx.claim, hl⟩

/-- A port that is not ONLINE has no lease to keep in its period. -/
theorem Port.Legal.withState {x : Port} (hx : x.Legal) {v : PortState} (hv : v.remaining = none) :
    Port.Legal { x with state := v } :=
  ⟨⟨hx.session.1, fun n hn => absurd (hv.symm.trans hn) (by simp)⟩, hx.claim, hx.latch⟩

theorem Port.Legal.told {x : Port} (hx : x.Legal) (ns : List Notice) : (x.told ns).Legal :=
  let ⟨state, settings, claim, _, _, _, latch, _⟩ := x.told_rest ns
  hx.congr state settings claim latch

theorem Hub.post_evolves (h : Hub) (p : PortId) (n : Notice) : h.Evolves (h.post p n) := by
  obtain ⟨e1, e2, e3, -, -, -, e4, -, -⟩ := h.post_rest p n
  refine .of_sameFrames e1 e2 (fun k => by rw [e3]; exact id) (fun q hq => ?_) e4
  rw [Hub.post_port]
  split
  · next e => subst e; exact hq.told _
  · exact hq

theorem Hub.postReady_evolves (h : Hub) (k : ClassId) : h.Evolves (h.postReady k) := by
  obtain ⟨e1, e2, e3, -, -, -, e4, -, -⟩ := h.postReady_rest k
  refine .of_sameFrames e1 e2 (fun k => by rw [e3]; exact id) (fun q hq => ?_) e4
  rw [Hub.postReady_port]
  exact hq.told _

theorem Hub.leaveFilling_evolves (h : Hub) (p : PortId) (i : FrameId) : h.Evolves (h.leaveFilling p i) :=
  h.updPort_evolves p fun _ hl => hl.congr rfl rfl rfl rfl

theorem Hub.leaveHold_evolves (h : Hub) (p : PortId) (i : FrameId) : h.Evolves (h.leaveHold p i) :=
  h.updPort_evolves p fun _ hl => hl.congr rfl rfl rfl rfl

theorem Hub.leaveStack_evolves (h : Hub) (p : PortId) (i : FrameId) : h.Evolves (h.leaveStack p i) :=
  h.updPort_evolves p fun _ hl => hl.congr rfl rfl rfl rfl

theorem Hub.leaveOwner_evolves (h : Hub) (i : FrameId) (c : Context) : h.Evolves (h.leaveOwner i c) := by
  unfold Hub.leaveOwner
  split
  · exact h.leaveFilling_evolves _ i
  · exact h.leaveHold_evolves _ i
  · exact h.leaveStack_evolves _ i
  · exact .refl h

theorem Hub.enterHold_evolves (hc : h.ctx i = some c) (hk : c.Keeps d) (p : PortId) :
    h.Evolves (h.enterHold i d p) :=
  (Hub.putCtx_evolves hc (hk.trans (d.keeps_fresh rfl rfl d.cause d.check))).trans
    (Hub.updPort_evolves _ p fun _ hl => hl.congr rfl rfl rfl rfl)

theorem Hub.grant_evolves (hc : h.ctx i = some c) (hk : c.Keeps d) (q : PortId) : h.Evolves (h.grant i d q) :=
  ((Hub.enterHold_evolves hc hk q).trans (Hub.updPort_evolves _ q fun _ hl => hl.withClaim rfl)).trans
    (Hub.with_waitList_evolves ..)

theorem Hub.enqueue_evolves (hc : h.ctx i = some c) (hk : c.Keeps d) (cause : Cause) :
    h.Evolves (h.enqueue i d cause) := by
  have queued : h.Evolves (h.putCtx i { d with cause := some cause, place := .queued d.control.base 0 }) :=
    Hub.putCtx_evolves hc (hk.trans (d.keeps_fresh rfl rfl (some cause) d.check))
  have joined : ∀ q, h.Evolves ((h.putCtx i { d with cause := some cause, place := .queued d.control.base 0 }).updClass
      d.control.cls (fun x => { x with queue := q })) :=
    fun q => queued.trans (Hub.updClass_evolves _ _ fun _ hl => hl)
  unfold Hub.enqueue
  dsimp only
  split
  · exact (joined _).trans (Hub.postReady_evolves ..)
  · exact joined _

theorem Hub.makeAvailable_evolves (hc : h.ctx i = some c) (hk : c.Keeps d) (cause : Cause)
    (passed : Option PortId) : h.Evolves (h.makeAvailable i d cause passed).1 := by
  unfold Hub.makeAvailable
  split
  · exact Hub.grant_evolves hc (hk.trans (d.keeps_cause _)) _
  · exact Hub.enqueue_evolves hc hk cause

theorem Hub.postIsolated_evolves (h : Hub) (i : FrameId) (c : Context) (r : IsoReason) :
    h.Evolves (h.postIsolated i c r) := by
  unfold Hub.postIsolated
  dsimp only
  split
  · split
    · exact Hub.post_evolves ..
    · exact (Hub.post_evolves ..).trans (Hub.post_evolves ..)
  · exact Hub.post_evolves ..

theorem Hub.isolate_evolves (hc : h.ctx i = some c) (hk : c.Keeps d) (r : IsoReason) :
    h.Evolves (h.isolate i d r) := by
  have hc' : (h.leaveOwner i d).ctx i = some c := by rw [Hub.leaveOwner_ctx]; exact hc
  have left := (h.leaveOwner_evolves i d).trans
    (Hub.putCtx_evolves hc' (hk.trans (d.keeps_fresh (x := .isolated r) rfl rfl d.cause d.check)))
  exact (left.trans (Hub.with_isolation_evolves ..)).trans (Hub.postIsolated_evolves ..)

theorem Hub.leaveIsolation_evolves (h : Hub) (i : FrameId) : h.Evolves (h.leaveIsolation i) :=
  h.with_isolation_evolves _

theorem Hub.claimFrame_evolves (hc : h.ctx i = some c) (p : PortId) : h.Evolves (h.claimFrame p i c) := by
  have left := h.updClass_evolves c.control.cls (f := fun x => { x with queue := x.queue.erase i }) fun _ hl => hl
  have hc' : (h.updClass c.control.cls (fun x => { x with queue := x.queue.erase i })).ctx i = some c := hc
  exact left.trans (Hub.enterHold_evolves hc' (.refl c) p)

theorem Hub.endWait_evolves (h : Hub) (p : PortId) {r : ClaimRec} (hr : r.inRange = true) :
    h.Evolves (h.endWait p r) :=
  (h.updPort_evolves p fun _ hl => hl.withClaim hr).trans (Hub.with_waitList_evolves ..)

/-! ### The fence -/

theorem Hub.freeAll_evolves (h : Hub) (l : List FrameId) : h.Evolves (h.freeAll l) := by
  induction l generalizing h with
  | nil => exact .refl h
  | cons i l ih =>
    unfold Hub.freeAll
    split
    · next hc => exact (Hub.freeFrame_evolves hc).trans (ih _)
    · exact ih h

theorem Hub.fenceLatch_evolves (h : Hub) (p : PortId) : h.Evolves (h.fenceLatch p) :=
  (Hub.Evolves.foldl (fun g _ => g.post_evolves _ _) h _).trans
    (Hub.updPort_evolves _ p fun _ hl => hl.withLatch rfl)

theorem Hub.reclaim_evolves (h : Hub) (p : PortId) (i : FrameId) : h.Evolves (h.reclaim p i) := by
  unfold Hub.reclaim
  split
  · exact .refl h
  · next c hc =>
    have given := Hub.makeAvailable_evolves hc (.refl c) .reclaimed (some p)
    dsimp only
    split
    · exact given
    · exact given.trans (Hub.post_evolves ..)

theorem Hub.fenceReclaim_evolves (h : Hub) (p : PortId) : h.Evolves (h.fenceReclaim p) :=
  (h.updPort_evolves p (f := fun x => { x with hold := [], stack := [] }) fun _ hl => hl.congr rfl rfl rfl rfl).trans
    (Hub.Evolves.foldl (fun g i => g.reclaim_evolves p i) _ _)

theorem Hub.fence_evolves (h : Hub) (p : PortId) (why : FenceReason) : h.Evolves (h.fence p why) := by
  have fenced := h.updPort_evolves p (f := fun x => { x with state := .fenced }) fun _ hl => hl.withState rfl
  have freed := (fenced.trans (Hub.freeAll_evolves _ (h.port p).filling)).trans
    (Hub.updPort_evolves _ p (f := fun x => { x with filling := [] }) fun _ hl => hl.congr rfl rfl rfl rfl)
  have ended := (freed.trans (Hub.endWait_evolves _ p (r := .none) rfl)).trans (Hub.fenceLatch_evolves _ p)
  exact (ended.trans (Hub.fenceReclaim_evolves _ p)).trans
    (Hub.updPort_evolves _ p (f := fun y => { y with notices := [(h.port p).fenceReport why] })
      fun _ hl => hl.congr rfl rfl rfl rfl)

/-! ### Stacks and preemption -/

theorem Hub.stackFrame_evolves (h : Hub) (p : PortId) (i : FrameId) : h.Evolves (h.stackFrame p i) := by
  unfold Hub.stackFrame
  split
  · next c hc => exact Hub.putCtx_evolves hc (c.keeps_fresh rfl rfl c.cause c.check)
  · exact .refl h

theorem Hub.pushVoluntary_evolves (h : Hub) (p : PortId) (i : FrameId) : h.Evolves (h.pushVoluntary p i) :=
  (h.leaveHold_evolves p i).trans <| (Hub.stackFrame_evolves ..).trans <|
    Hub.updPort_evolves _ p fun _ hl => hl.congr rfl rfl rfl rfl

theorem Hub.resumeFrame_evolves (h : Hub) (p : PortId) (i : FrameId) : h.Evolves (h.resumeFrame p i) := by
  unfold Hub.resumeFrame
  split
  · next c hc => exact Hub.enterHold_evolves hc (.refl c) p
  · exact .refl h

/-- A latch set once the hub has evolved: its range may rest on the port as it stood before. -/
theorem Hub.Evolves.setLatch {h k : Hub} (x : h.Evolves k) {p : PortId} {l : Latch}
    (hl : (h.port p).Legal → l.inRange = true) : h.Evolves (k.setLatch p l) where
  frames := x.frames
  blocks := x.blocks
  classes := x.classes
  ports q hq := by
    rw [Hub.setLatch_port]
    split
    · next e => subst e; exact (x.ports q hq).withLatch (hl hq)
    · exact x.ports q hq
  memory := x.memory

theorem Hub.setLatch_evolves (h : Hub) (p : PortId) {l : Latch} (hl : (h.port p).Legal → l.inRange = true) :
    h.Evolves (h.setLatch p l) := (Hub.Evolves.refl h).setLatch hl

/-- A grace timer starts within the longest grace period (R112). -/
theorem Port.graceStart_inRange {x : Port} (hx : x.Legal) (n : Urgent) :
    (Latch.pending n x.graceStart).inRange = true := by
  unfold Port.graceStart Port.gracePeriod
  cases ht : x.settings with
  | none => rfl
  | some t =>
    have hg := (hx.session.1 t ht).2
    simp only [zeroOrPeriod, inPeriod, Bool.or_eq_true, beq_iff_eq, decide_eq_true_eq] at hg
    dsimp only
    split
    · rfl
    · simp only [Latch.inRange, decide_eq_true_eq]
      omega

theorem Hub.postUrgent_evolves (h : Hub) (t : PortId) (n : Urgent) : h.Evolves (h.postUrgent t n).1 := by
  unfold Hub.postUrgent
  split
  · exact h.setLatch_evolves t fun hx => Port.graceStart_inRange hx n
  · exact .refl h
  · exact h.setLatch_evolves t fun _ => rfl
  · exact .refl h

theorem Hub.saveHold_evolves (h : Hub) (p : PortId) : h.Evolves (h.saveHold p) :=
  (Hub.Evolves.foldl (fun g i => g.stackFrame_evolves p i) h _).trans
    (Hub.updPort_evolves _ p fun _ hl => hl.congr rfl rfl rfl rfl)

theorem Hub.beginService_evolves (h : Hub) (p : PortId) (n : Urgent) : h.Evolves (h.beginService p n) :=
  (h.saveHold_evolves p).trans ((Hub.setLatch_evolves _ p fun _ => rfl).trans (Hub.post_evolves ..))

theorem EndTally.deal_evolves (t : EndTally) (p : PortId) (i : FrameId) : t.hub.Evolves (t.deal p i).hub := by
  unfold EndTally.deal
  split
  · exact .refl _
  · next c hc =>
    split
    · exact Hub.enterHold_evolves hc (.refl c) p
    · exact Hub.makeAvailable_evolves hc (.refl c) .returned none

theorem EndTally.foldl_deal_evolves (t : EndTally) (p : PortId) (l : List FrameId) :
    t.hub.Evolves (l.foldl (fun t i => t.deal p i) t).hub := by
  induction l generalizing t with
  | nil => exact .refl _
  | cons i l ih => exact (t.deal_evolves p i).trans (ih _)

theorem Port.latchAfter_inRange {x : Port} (hx : x.Legal) : x.latchAfter.inRange = true := by
  unfold Port.latchAfter
  split
  · exact Port.graceStart_inRange hx _
  · rfl

theorem Hub.endService_evolves (h : Hub) (p : PortId) (v : Urgent) : h.Evolves (h.endService p v).hub := by
  have left := h.updPort_evolves p (f := fun x => { x with stack := x.stack.filter (fun e => e.tag != .preempt) })
    fun _ hl => hl.congr rfl rfl rfl rfl
  exact ((left.trans (EndTally.foldl_deal_evolves ⟨_, [], []⟩ p _)).trans (Hub.post_evolves ..)).setLatch
    Port.latchAfter_inRange

/-! ### Sessions, classes and the tick -/

theorem Hub.restartLease_evolves (h : Hub) (p : PortId) : h.Evolves (h.restartLease p) := by
  refine h.updPort_evolves p fun _ hl => ?_
  split
  · next t _ ht =>
    refine ⟨⟨hl.session.1, fun n hn => ?_⟩, hl.claim, hl.latch⟩
    cases hn
    exact ⟨t, ht, le_rfl⟩
  · exact hl

theorem Hub.beginSession_evolves (h : Hub) (p : PortId) {t : Settings} (lease : inPeriod t.lease = true)
    (grace : zeroOrPeriod t.grace = true) : h.Evolves (h.beginSession p t) := by
  refine h.updPort_evolves p fun _ hl => ⟨⟨fun u hu => ?_, fun n hn => ?_⟩, hl.claim, hl.latch⟩
  · cases hu
    exact ⟨lease, grace⟩
  · cases hn
    exact ⟨t, rfl, le_rfl⟩

theorem Hub.endSession_evolves (h : Hub) (p : PortId) : h.Evolves (h.endSession p) := by
  have cancelled : h.Evolves (h.cancelPending p) := by
    unfold Hub.cancelPending
    split
    · exact (Hub.post_evolves ..).trans (Hub.updPort_evolves _ p fun _ hl => hl.withLatch rfl)
    · exact .refl h
  exact cancelled.trans (Hub.updPort_evolves _ p fun _ hl => (hl.withState rfl).congr rfl rfl rfl rfl)

theorem Hub.setSubscription_evolves (h : Hub) (p : PortId) (m : ClassSet) : h.Evolves (h.setSubscription p m) := by
  refine h.updPort_evolves p fun _ hl => ⟨⟨fun t ht => ?_, fun n hn => ?_⟩, hl.claim, hl.latch⟩
  · obtain ⟨u, hu, rfl⟩ := Option.map_eq_some_iff.mp ht
    exact hl.session.1 u hu
  · obtain ⟨t, ht, hle⟩ := hl.session.2 n hn
    exact ⟨_, Option.map_eq_some_iff.mpr ⟨t, ht, rfl⟩, hle⟩

theorem Hub.restartWaits_evolves (h : Hub) (l : List FrameId) : h.Evolves (h.restartWaits l) := by
  induction l generalizing h with
  | nil => exact .refl h
  | cons i l ih =>
    unfold Hub.restartWaits
    split
    · next c hc =>
      split
      · exact (Hub.putCtx_evolves hc (c.keeps_fresh rfl rfl c.cause c.check)).trans (ih _)
      · exact ih h
    · exact ih h

theorem Hub.setBand_evolves (h : Hub) (e : Prio) (l : List FrameId) : h.Evolves (h.setBand e l) := by
  induction l generalizing h with
  | nil => exact .refl h
  | cons i l ih =>
    unfold Hub.setBand
    split
    · next c hc => exact (Hub.putCtx_evolves hc (c.keeps_fresh rfl rfl c.cause c.check)).trans (ih _)
    · exact ih h

theorem Hub.setClassRecord_evolves (h : Hub) {a : ClassSetArgs} (positive : 1 ≤ a.limit) (bounded : a.limit ≤ 64)
    (aging : zeroOrPeriod a.aging = true) : h.Evolves (h.setClassRecord a) := by
  have set := h.updClass_evolves a.cls
    (f := fun x => { x with enabled := a.enabled, limit := a.limit, aging := a.aging })
    fun _ _ => ⟨positive, bounded, aging⟩
  unfold Hub.setClassRecord
  dsimp only
  split
  · exact set
  · exact set.trans (Hub.restartWaits_evolves ..)

theorem Hub.promote_evolves (h : Hub) (k : ClassId) (b : Prio) : h.Evolves (h.promote k b) := by
  unfold Hub.promote
  dsimp only
  split
  · exact .refl h
  · refine .trans ?_ (Hub.setBand_evolves ..)
    exact h.updClass_evolves k fun _ hl => hl

theorem Hub.lapse_evolves (h : Hub) (p : PortId) (n : Urgent) : h.Evolves (h.lapse p n) :=
  (h.updPort_evolves p fun _ hl => hl.withLatch rfl).trans ((Hub.post_evolves ..).trans (Hub.post_evolves ..))

theorem Frame.tick_evolves (f : Frame) : f.Evolves f.tick := by
  unfold Frame.tick
  split
  · next c hc =>
    split
    · exact Frame.evolves_of_keeps hc
        (c.keeps_place (fun _ => Nat.zero_le _) (fun _ => Nat.min_le_right ..) c.cause c.check)
    · exact .refl f
  · exact .refl f

theorem Frame.tick_ctx_ne_none {f : Frame} {c : Context} (hc : f.ctx = some c) : f.tick.ctx ≠ none := by
  unfold Frame.tick
  rw [hc]
  dsimp only
  split
  · simp
  · rw [hc]; simp

/-- A timer counted down stays in its range (R91, R112, R132). -/
theorem Port.Legal.tick {x : Port} (hx : x.Legal) : x.tick.Legal := by
  obtain ⟨hs, hc, hl⟩ := hx
  refine ⟨⟨hs.1, fun n hn => ?_⟩, ?_, ?_⟩
  · simp only [Port.tick] at hn
    cases hst : x.state <;> rw [hst] at hn <;> cases hn
    obtain ⟨t, ht, hle⟩ := hs.2 _ (by rw [hst]; rfl)
    exact ⟨t, ht, (Nat.sub_le ..).trans hle⟩
  · simp only [Port.tick]
    cases hcl : x.claim <;> simp_all [ClaimRec.tick, ClaimRec.inRange]
    omega
  · simp only [Port.tick]
    cases hla : x.latch with
    | pending n g => cases g <;> simp_all [Latch.tick, Latch.inRange]; omega
    | _ => rfl

@[simp] theorem Hub.tick_frame (h : Hub) (j : FrameId) : h.tick.frame j = (h.frame j).tick := by
  simp [Hub.tick, Hub.frame, Vector.get_eq_getElem]

@[simp] theorem Hub.tick_port (h : Hub) (p : PortId) : h.tick.port p = (h.port p).tick := by
  simp [Hub.tick, Hub.port, Vector.get_eq_getElem]

theorem Hub.tick_evolves (h : Hub) : h.Evolves h.tick :=
  .of_frames (fun j => h.tick_frame j ▸ (h.frame j).tick_evolves)
    (fun j c hc => by rw [Hub.ctx, Hub.tick_frame]; exact Frame.tick_ctx_ne_none hc)
    (fun _ => rfl) (fun _ => id) (fun p hp => by rw [Hub.tick_port]; exact hp.tick) rfl

/-! ### Every deed -/

/-- Every deed lets the hub evolve. -/
theorem Hub.Deed.evolves {g : Hub} (d : h.Deed g) : h.Evolves g := by
  cases d with
  | join off lease grace => exact h.beginSession_evolves _ lease grace
  | leave on may => exact h.endSession_evolves _
  | subscribe on => exact h.setSubscription_evolves _ _
  | restartLease => exact h.restartLease_evolves _
  | goOffline off => exact h.updPort_evolves _ fun _ hl => (hl.withState rfl).congr rfl rfl rfl rfl
  | isolate on used owned => exact Hub.isolate_evolves used (Context.keeps_check ..) _
  | release on used owned =>
    refine (h.leaveOwner_evolves _ _).trans (Hub.makeAvailable_evolves ?_ (Context.keeps_check ..) _ _)
    rw [Hub.leaveOwner_ctx]
    exact used
  | free on used owned =>
    refine (h.leaveOwner_evolves _ _).trans (Hub.freeFrame_evolves ?_)
    rw [Hub.leaveOwner_ctx]
    exact used
  | discard used isolated => exact (h.leaveIsolation_evolves _).trans (Hub.freeFrame_evolves used)
  | edit on used owned amends => exact Hub.putCtx_evolves used (Context.keeps_control amends _)
  | stayIsolated used isolated amends =>
    exact Hub.putCtx_evolves used ((Context.keeps_control amends _).trans (Context.keeps_fresh _ rfl rfl _ _))
  | @repair i c _ _ used isolated amends =>
    have used' : (h.leaveIsolation i).ctx i = some c := used
    exact (h.leaveIsolation_evolves _).trans
      (Hub.makeAvailable_evolves used' (Context.keeps_control amends _) _ _)
  | claim on room queued used allowed => exact Hub.claimFrame_evolves used _
  | wait on mask time room idle empty =>
    refine (h.updPort_evolves _ fun _ hl => hl.withClaim ?_).trans (Hub.with_waitList_evolves ..)
    simp only [waitPeriod, decide_eq_true_eq] at time
    simp [ClaimRec.inRange, mask, time.2]
  | endWait ended on => exact h.endWait_evolves _ (by rcases ended with rfl | rfl <;> rfl)
  | readClaim result => exact h.updPort_evolves _ fun _ hl => hl.withClaim rfl
  | suspend on used held room => exact h.pushVoluntary_evolves _ _
  | resume on top tag room =>
    refine .trans ?_ (Hub.resumeFrame_evolves ..)
    exact h.updPort_evolves _ fun _ hl => hl.congr rfl rfl rfl rfl
  | preempt other on => exact h.postUrgent_evolves _ _
  | takePreempt on latch room => exact h.beginService_evolves _ _
  | endPreempt on latch held flat room => exact h.endService_evolves _ _
  | readNotices => exact h.updPort_evolves _ fun _ hl => hl.congr rfl rfl rfl rfl
  | setClass positive bounded aging closed fits => exact h.setClassRecord_evolves positive bounded aging
  | fence on => exact h.fence_evolves _ _
  | lapse latch => exact h.lapse_evolves _ _
  | promote => exact h.promote_evolves _ _
  | tick => exact h.tick_evolves

theorem Hub.Deeds.evolves {g : Hub} (d : h.Deeds g) : h.Evolves g :=
  Relation.ReflTransGen.rec (.refl h) (fun _ d x => x.trans d.evolves) d

end Operations

end Sys2Proof.Machine
end

section
/-!
The ranges, the conservation of blocks, the fixed fields of a frame and the stored words: each law follows from the way
the hub evolves, with PARK_OPEN and the writes of the Image Store beside it.
-/
open Sys2Proof Sys2Proof.Machine
namespace Sys2Proof.Machine

/-! ### The writes of the Image Store -/

/-- Stored words and the marks of blocks change, and nothing else. -/
structure Hub.Rewrites (h g : Hub) : Prop where
  frames  : ∀ j, g.frame j = h.frame j
  classes : ∀ k, g.cls k = h.cls k
  ports   : ∀ p, g.port p = h.port p
  free    : ∀ b, (g.block b).free = (h.block b).free
  memory  : h.memory.wf → g.memory.wf

theorem Hub.Rewrites.ctx {h g : Hub} (x : h.Rewrites g) (j : FrameId) : g.ctx j = h.ctx j := by
  rw [Hub.ctx, x.frames, Hub.ctx]

theorem Hub.storeWords_rewrites (h : Hub) (c : Context) (k : Nat) (vs : List Word) :
    h.Rewrites (h.storeWords c k vs) := by
  obtain ⟨frames, classes, ports, -, -⟩ := h.storeWords_rest c k vs
  exact ⟨frames, classes, ports, h.storeWords_free c k vs, fun hm => Hub.storeWords_wf hm c k vs⟩

theorem Hub.strike_rewrites (h : Hub) (b : BlockId) (pos : Fin 8) (v : Word) : h.Rewrites (h.strike b pos v) where
  frames _ := rfl
  classes _ := rfl
  ports _ := rfl
  free a := by
    rw [Hub.strike_block]
    split
    · next e => rw [e]
    · rfl
  memory hm := Memory.write_wf hm (Nat.mod_eq_of_lt pos.isLt ▸ place_lt b pos.val) v

/-- What writes the Image Store rewrites it, and then at most moves the fill pointer or sets the modified mark of the
frame it wrote (R46, R71). -/
theorem Hub.Writes.evolves {h g : Hub} (w : h.Writes g) : ∃ m, h.Rewrites m ∧ m.Evolves g := by
  cases w with
  | @fill p i c off ws on used filling fits =>
    have stored := h.storeWords_rewrites c off ws
    refine ⟨_, stored, Hub.putCtx_evolves ((stored.ctx i).trans used) ?_⟩
    exact c.keeps_place (x := .filling p (off + ws.length)) (fun _ => fits) (fun _ => Nat.zero_le _) c.cause c.check
  | @modify p i c off ws on used held =>
    have stored := h.storeWords_rewrites c off ws
    exact ⟨_, stored, Hub.putCtx_evolves ((stored.ctx i).trans used) (c.keeps_fresh rfl rfl c.cause c.check)⟩
  | rewrite used isolated => exact ⟨_, h.storeWords_rewrites .., .refl _⟩
  | strike => exact ⟨_, h.strike_rewrites .., .refl _⟩

/-! ### The ranges (R1, R5, R8, R11, R12, R13, R22, R82, R112, R127) -/

/-- Every field of the hub in its range, and the words of the Image Store in their one form. -/
def Hub.RangesLegal (h : Hub) : Prop :=
  h.memory.wf ∧ h.GenerationsLegal ∧ h.FieldsLegal ∧ h.ClassesLegal ∧ h.SessionsLegal ∧ h.RecordsLegal

/-- The ranges, part by part of the hub. -/
theorem Hub.rangesLegal_iff (h : Hub) : h.RangesLegal ↔ h.memory.wf ∧
    (∀ j, (h.frame j).gen ≠ 0#10 ∧ ∀ c, h.ctx j = some c → c.FieldsLegal) ∧ (∀ k, (h.cls k).Legal) ∧
    ∀ p, (h.port p).Legal := by
  constructor
  · rintro ⟨hm, hg, hf, hc, hs, hr⟩
    exact ⟨hm, fun j => ⟨hg j, hf j⟩, hc, fun p => ⟨hs p, (hr p).1, (hr p).2⟩⟩
  · rintro ⟨hm, hf, hc, hp⟩
    exact ⟨hm, fun j => (hf j).1, fun j => (hf j).2, hc, fun p => (hp p).session,
      fun p => ⟨(hp p).claim, (hp p).latch⟩⟩

/-- The next generation is never 0 (R5). -/
theorem nextGen_ne_zero (g : BitVec 10) : nextGen g ≠ 0#10 := by
  unfold nextGen
  split
  · decide
  · next h => intro e; apply h; bv_omega

theorem Hub.Evolves.rangesLegal {h g : Hub} (x : h.Evolves g) (hl : h.RangesLegal) : g.RangesLegal := by
  rw [Hub.rangesLegal_iff] at hl ⊢
  obtain ⟨hm, hf, hc, hp⟩ := hl
  refine ⟨x.memory ▸ hm, fun j => ⟨?_, fun d hd => ?_⟩, fun k => x.classes k (hc k), fun p => x.ports p (hp p)⟩
  · cases hu : h.ctx j with
    | none => rw [(x.frames j).unused hu]; exact (hf j).1
    | some c =>
      rcases (x.frames j).used c hu with ⟨hg, -⟩ | hn
      · rw [hg]; exact (hf j).1
      · rw [hn]; exact nextGen_ne_zero _
  · obtain ⟨c, hu, hk⟩ := x.ctx_some hd
    exact hk.legal ((hf j).2 c hu)

theorem Hub.Rewrites.rangesLegal {h g : Hub} (x : h.Rewrites g) (hl : h.RangesLegal) : g.RangesLegal := by
  rw [Hub.rangesLegal_iff] at hl ⊢
  simpa only [x.ctx, x.frames, x.classes, x.ports] using And.imp_left x.memory hl

theorem Hub.Opens.rangesLegal {h g : Hub} (o : h.Opens g) (hl : h.RangesLegal) : g.RangesLegal := by
  rw [Hub.rangesLegal_iff] at hl ⊢
  obtain ⟨hm, hf, hc, hp⟩ := hl
  cases o with
  | park on enabled legal positive short filling room lowest space =>
    refine ⟨(Hub.openPark_rest ..).1.symm ▸ hm, fun j => ⟨?_, fun d hd => ?_⟩, fun k => ?_, fun q => ?_⟩
    · rw [Hub.openPark_frame]
      split
      · exact (hf _).1
      · exact (hf j).1
    · rw [Hub.openPark_ctx] at hd
      split at hd
      · cases hd
        exact ⟨legal.1, legal.2, positive, short, Nat.zero_le _, Nat.zero_le _⟩
      · exact (hf j).2 d hd
    · rw [Hub.openPark_cls]
      split
      · exact hc k
      · exact hc k
    · rw [Hub.openPark_port]
      split
      · exact (hp _).congr rfl rfl rfl rfl
      · exact hp q

theorem Hub.Writes.rangesLegal {h g : Hub} (w : h.Writes g) (hl : h.RangesLegal) : g.RangesLegal := by
  obtain ⟨m, hr, he⟩ := w.evolves
  exact he.rangesLegal (hr.rangesLegal hl)

theorem Hub.reset_rangesLegal : Hub.reset.RangesLegal := by
  rw [Hub.rangesLegal_iff]
  refine ⟨Memory.reset_wf, fun j => ⟨?_, fun c hc => ?_⟩, fun k => ?_, fun p => ?_⟩
  · rw [Hub.reset_frame]; decide
  · rw [Hub.ctx, Hub.reset_frame] at hc; cases hc
  · rw [Hub.reset_cls]; unfold ClassRec.Legal; decide
  · rw [Hub.reset_port]
    exact ⟨⟨fun _ ht => absurd ht (by simp [Port.reset]),
      fun _ hn => absurd hn (by simp [Port.reset, PortState.remaining])⟩, rfl, rfl⟩

/-! ### The blocks (R17) -/

theorem Hub.mem_blocksOf {h : Hub} {i : FrameId} {b : BlockId} :
    b ∈ h.blocksOf i ↔ ∃ c, h.ctx i = some c ∧ b ∈ c.blocks := by
  unfold Hub.blocksOf
  split
  · next c hc => simp [hc]
  · next hn => simp [hn]

theorem Hub.Evolves.mem_blocksOf {h g : Hub} (x : h.Evolves g) {i : FrameId} {b : BlockId} :
    b ∈ g.blocksOf i ↔ b ∈ h.blocksOf i ∧ g.ctx i ≠ none := by
  rw [Hub.mem_blocksOf, Hub.mem_blocksOf]
  constructor
  · rintro ⟨d, hd, hb⟩
    obtain ⟨c, hc, hk⟩ := x.ctx_some hd
    exact ⟨⟨c, hc, hk.blocks ▸ hb⟩, by rw [hd]; simp⟩
  · rintro ⟨⟨c, hc, hb⟩, hn⟩
    obtain ⟨d, hd⟩ := Option.ne_none_iff_exists'.mp hn
    obtain ⟨c', hc', hk⟩ := x.ctx_some hd
    cases hc'.symm.trans hc
    exact ⟨d, hd, hk.blocks ▸ hb⟩

/-- A frame freed is the only one that listed its blocks, so no frame lists the blocks that rejoin the free set. -/
theorem Hub.Evolves.blocksConserved {h g : Hub} (x : h.Evolves g) (hl : h.BlocksConserved) : g.BlocksConserved where
  listed b := by
    rw [x.blocks b, hl.listed b]
    simp only [x.mem_blocksOf]
    constructor
    · rintro ⟨⟨i, hi⟩, kept⟩
      refine ⟨i, hi, fun hn => ?_⟩
      obtain ⟨c, hc, hb⟩ := Hub.mem_blocksOf.mp hi
      exact kept i c hc hn hb
    · rintro ⟨i, hi, hn⟩
      refine ⟨⟨i, hi⟩, fun j c hc hj hb => hn ?_⟩
      rw [hl.apart i j b hi (Hub.mem_blocksOf.mpr ⟨c, hc, hb⟩)]
      exact hj
  apart i j b hi hj := hl.apart i j b (x.mem_blocksOf.mp hi).1 (x.mem_blocksOf.mp hj).1
  legal i d hd := by
    obtain ⟨c, hc, hk⟩ := x.ctx_some hd
    obtain ⟨nodup, length⟩ := hl.legal i c hc
    exact ⟨hk.blocks ▸ nodup, by rw [hk.blocks, hk.len, length]⟩

theorem Hub.Rewrites.blocksConserved {h g : Hub} (x : h.Rewrites g) (hl : h.BlocksConserved) : g.BlocksConserved := by
  have same : ∀ i, g.blocksOf i = h.blocksOf i := fun i => by unfold Hub.blocksOf; rw [x.ctx]
  exact ⟨fun b => by simp only [x.free, same, hl.listed], fun i j b hi hj => hl.apart i j b (same i ▸ hi) (same j ▸ hj),
    fun i c hc => hl.legal i c (x.ctx i ▸ hc)⟩

/-- A frame opened takes its blocks from the free set, where no other frame listed them (R42). -/
theorem Hub.Opens.blocksConserved {h g : Hub} (o : h.Opens g) (hl : h.BlocksConserved) : g.BlocksConserved := by
  cases o with
  | @park p i c len check on enabled legal positive short filling room lowest space =>
    have taken : ∀ {b}, b ∈ h.freeBlocks.take (blocksFor len) → (h.block b).free = true :=
      fun hb => Hub.mem_freeBlocks.mp (List.mem_of_mem_take hb)
    have unused := Hub.ctx_of_lowestFree lowest
    have lists : ∀ j b, b ∈ (h.openPark p i c len check).blocksOf j ↔
        (j = i ∧ b ∈ h.freeBlocks.take (blocksFor len)) ∨ b ∈ h.blocksOf j := by
      intro j b
      rw [Hub.mem_blocksOf, Hub.mem_blocksOf, Hub.openPark_ctx]
      by_cases e : j = i
      · subst e; simp [openedContext, unused]
      · simp [e]
    have apart : ∀ {j b}, b ∈ h.freeBlocks.take (blocksFor len) → b ∉ h.blocksOf j := fun hb hj => by
      have := (hl.listed _).mpr ⟨_, hj⟩
      rw [taken hb] at this
      cases this
    refine ⟨fun b => ?_, fun j k b hj hk => ?_, fun j d hd => ?_⟩
    · rw [Hub.openPark_block]
      simp only [lists]
      split
      · next hb => exact ⟨fun _ => ⟨i, .inl ⟨rfl, hb⟩⟩, fun _ => rfl⟩
      · next hb => simp [hl.listed b, hb]
    · rcases (lists j b).mp hj with ⟨rfl, hb⟩ | hj' <;> rcases (lists k b).mp hk with ⟨rfl, hb'⟩ | hk'
      · rfl
      · exact absurd hk' (apart hb)
      · exact absurd hj' (apart hb')
      · exact hl.apart j k b hj' hk'
    · rw [Hub.openPark_ctx] at hd
      split at hd
      · cases hd
        exact ⟨h.freeBlocks_nodup.sublist (List.take_sublist ..), List.length_take_of_le space⟩
      · exact hl.legal j d hd

theorem Hub.Writes.blocksConserved {h g : Hub} (w : h.Writes g) (hl : h.BlocksConserved) : g.BlocksConserved := by
  obtain ⟨m, hr, he⟩ := w.evolves
  exact he.blocksConserved (hr.blocksConserved hl)

theorem Hub.reset_blocksConserved : Hub.reset.BlocksConserved := by
  have unused : ∀ i, Hub.reset.ctx i = none := fun i => by rw [Hub.ctx, Hub.reset_frame]; rfl
  have lists : ∀ i b, b ∉ Hub.reset.blocksOf i := fun i b hb => by
    obtain ⟨c, hc, -⟩ := Hub.mem_blocksOf.mp hb
    rw [unused] at hc
    cases hc
  refine ⟨fun b => ?_, fun i _ b hi => absurd hi (lists i b), fun i c hc => ?_⟩
  · simp [lists, Block.reset]
  · rw [unused] at hc; cases hc

/-! ### The fixed fields (R5, R7, R9, R11, R12) -/

/-- A park opens a FREE frame in its generation, and changes no other. -/
theorem Hub.Opens.frame {h g : Hub} (o : h.Opens g) (j : FrameId) :
    g.frame j = h.frame j ∨ h.ctx j = none ∧ (g.frame j).gen = (h.frame j).gen := by
  cases o with
  | park on enabled legal positive short filling room lowest space =>
    rw [Hub.openPark_frame]
    split
    · next e => subst e; exact .inr ⟨Hub.ctx_of_lowestFree lowest, rfl⟩
    · exact .inl rfl

theorem Hub.Opens.memory {h g : Hub} (o : h.Opens g) : g.memory = h.memory := by
  cases o with
  | park => exact (Hub.openPark_rest ..).1

/-- Every command but hub reset lets every frame evolve, unless it is the FREE frame that a park opens. -/
theorem exec_frame {i : Instr} {s t : State} (e : exec i s = .next t) (hi : i ≠ .hubReset) (j : FrameId) :
    (s.hub.frame j).Evolves (t.hub.frame j) ∨
      s.hub.ctx j = none ∧ (t.hub.frame j).gen = (s.hub.frame j).gen := by
  rcases exec_changes e hi with d | o | ⟨-, w⟩
  · exact .inl (d.evolves.frames j)
  · rcases o.frame j with same | opened
    · rw [same]; exact .inl (.refl _)
    · exact .inr opened
  · obtain ⟨m, hr, he⟩ := w.evolves
    rw [← hr.frames j]
    exact .inl (he.frames j)

/-- A command that is not one of those that write leaves every stored word. -/
theorem exec_memory {i : Instr} {s t : State} (e : exec i s = .next t) (hi : i ≠ .hubReset) (hw : ¬ WritesStore i) :
    t.hub.memory = s.hub.memory := by
  rcases exec_changes e hi with d | o | ⟨w, -⟩
  · exact d.evolves.memory
  · exact o.memory
  · exact absurd w hw

theorem writesStore_cases {i : Instr} (h : WritesStore i) :
    (∃ p tag ws, i = .parkWrite p tag ws ∨ i = .writeImage p tag ws ∨ i = .isolationWrite p tag ws) ∨
      ∃ b pos v, i = .fault b pos v := by
  cases i
  case parkWrite p tag ws => exact .inl ⟨p, tag, ws, .inl rfl⟩
  case writeImage p tag ws => exact .inl ⟨p, tag, ws, .inr (.inl rfl)⟩
  case isolationWrite p tag ws => exact .inl ⟨p, tag, ws, .inr (.inr rfl)⟩
  case fault b pos v => exact .inr ⟨b, pos, v, rfl⟩
  all_goals exact h.elim

end Sys2Proof.Machine

/-- Settles O52: deeds and writes let the hub evolve, which keeps every range, and PARK_OPEN opens a frame within
them. -/
theorem stepsKeepFieldsInTheirRanges : Obligations.StepsKeepFieldsInTheirRanges :=
  fun _ _ hl e => step_keeps (Law := Hub.RangesLegal) Hub.reset_rangesLegal (fun hl d => d.evolves.rangesLegal hl)
    (fun hl o => o.rangesLegal hl) (fun hl w => w.rangesLegal hl) hl e

/-- Settles O54: a frame that is freed gives back its blocks, and PARK_OPEN takes free ones. -/
theorem stepsKeepBlocksConserved : Obligations.StepsKeepBlocksConserved :=
  fun _ _ hl e => step_keeps (Law := Hub.BlocksConserved) Hub.reset_blocksConserved
    (fun hl d => d.evolves.blocksConserved hl) (fun hl o => o.blocksConserved hl) (fun hl w => w.blocksConserved hl)
    hl e

/-- Settles O48, by the way every command lets a frame evolve. -/
theorem fixedFieldsLastUntilTheFrameIsFreed : Obligations.FixedFieldsLastUntilTheFrameIsFreed := by
  refine ⟨fun i => by rw [show State.reset.hub = Hub.reset from rfl, Hub.reset_frame]; rfl, ?_⟩
  intro i s t j e hi
  rcases exec_frame e hi j with x | ⟨unused, gen⟩
  · refine ⟨fun unused => by rw [x.unused unused], fun c used => ?_⟩
    rcases x.used c used with ⟨gen, d, hd, k⟩ | freed
    · exact .inl ⟨gen, d, hd, k.cls, k.origin, k.waitMarker, k.trap, k.len, k.blocks⟩
    · exact .inr ⟨by rw [Hub.ctx, freed], by rw [freed]; rfl⟩
  · exact ⟨fun _ => gen, fun c used => absurd (unused.symm.trans used) (by simp)⟩

/-- Settles O50: the deeds and PARK_OPEN leave the Image Store alone. -/
theorem onlyWritesAndFaultsChangeStoredWords : Obligations.OnlyWritesAndFaultsChangeStoredWords := by
  intro i s t a e changed
  by_cases hi : i = .hubReset
  · exact .inr (.inr hi)
  · by_cases hw : WritesStore i
    · rcases writesStore_cases hw with w | f
      · exact .inl w
      · exact .inr (.inl f)
    · exact absurd (by rw [exec_memory e hi hw]) changed
end

section
/-!
Every frame in the one collection of its state (R2). The collections are named uniformly as shelves, and `FiledBut`
says that every frame but those of a list stands on its shelf: a frame is taken from its shelf, is out while the deed
goes on, and is put on the shelf of its new state.
-/
open Sys2Proof Sys2Proof.Machine
namespace Sys2Proof.Machine

/-! ### Shelves -/

/-- A collection of frames (R2): the queue of a class, a hold set, filling list or stack of a port, or the Isolation
List. -/
inductive Shelf where
  | queue (k : ClassId)
  | hold (p : PortId)
  | filling (p : PortId)
  | stack (p : PortId)
  | isolation
  deriving DecidableEq

/-- The frames of a collection. -/
def Hub.shelf (h : Hub) : Shelf → List FrameId
  | .queue k => (h.cls k).queue
  | .hold p => (h.port p).hold
  | .filling p => (h.port p).filling
  | .stack p => (h.port p).stack.map StackEntry.frame
  | .isolation => h.isolation

/-- The collection of a state (R2). -/
def Context.shelf (c : Context) : Shelf :=
  match c.place with
  | .queued _ _ => .queue c.control.cls
  | .held o _ => .hold o
  | .filling o _ => .filling o
  | .stacked o => .stack o
  | .isolated _ => .isolation

/-- The collection of the state of a frame, none for a FREE one. -/
def Hub.shelfOf (h : Hub) (i : FrameId) : Option Shelf := (h.ctx i).map Context.shelf

/-- Every frame is recorded once in the collection of its state and in no other, but the frames `out`, which are
recorded in none. -/
structure Hub.FiledBut (h : Hub) (out : List FrameId) : Prop where
  nodup : ∀ x, (h.shelf x).Nodup
  mem   : ∀ x i, i ∈ h.shelf x ↔ i ∉ out ∧ h.shelfOf i = some x

theorem Hub.queuedIn_iff (h : Hub) (k : ClassId) (i : FrameId) :
    h.queuedIn k i = true ↔ h.shelfOf i = some (.queue k) := by
  unfold Hub.queuedIn Hub.shelfOf Context.shelf
  cases h.ctx i with
  | none => simp
  | some c => cases hp : c.place <;> simp [hp, Place.isQueued]

theorem Hub.placed_isHeldOf_iff (h : Hub) (p : PortId) (i : FrameId) :
    h.placed (Place.isHeldOf p) i = true ↔ h.shelfOf i = some (.hold p) := by
  unfold Hub.placed Hub.shelfOf Context.shelf
  cases h.ctx i with
  | none => simp
  | some c => cases hp : c.place <;> simp [hp, Place.isHeldOf]

theorem Hub.placed_isFillingOf_iff (h : Hub) (p : PortId) (i : FrameId) :
    h.placed (Place.isFillingOf p) i = true ↔ h.shelfOf i = some (.filling p) := by
  unfold Hub.placed Hub.shelfOf Context.shelf
  cases h.ctx i with
  | none => simp
  | some c => cases hp : c.place <;> simp [hp, Place.isFillingOf]

theorem Hub.placed_isStackedOf_iff (h : Hub) (p : PortId) (i : FrameId) :
    h.placed (Place.isStackedOf p) i = true ↔ h.shelfOf i = some (.stack p) := by
  unfold Hub.placed Hub.shelfOf Context.shelf
  cases h.ctx i with
  | none => simp
  | some c => cases hp : c.place <;> simp [hp, Place.isStackedOf]

theorem Hub.placed_isIsolated_iff (h : Hub) (i : FrameId) :
    h.placed Place.isIsolated i = true ↔ h.shelfOf i = some .isolation := by
  unfold Hub.placed Hub.shelfOf Context.shelf
  cases h.ctx i with
  | none => simp
  | some c => cases hp : c.place <;> simp [hp, Place.isIsolated]

/-- The law of R2 is that every frame stands on its shelf. -/
theorem Hub.filed_iff (h : Hub) : h.Filed ↔ h.FiledBut [] := by
  constructor
  · rintro ⟨n1, n2, n3, n4, n5, m1, m2, m3, m4, m5⟩
    refine ⟨fun x => ?_, fun x i => ?_⟩
    · cases x with
      | queue k => exact n1 k
      | hold p => exact n2 p
      | filling p => exact n3 p
      | stack p => exact n4 p
      | isolation => exact n5
    · rw [and_iff_right List.not_mem_nil]
      cases x with
      | queue k => exact (m1 k i).trans (h.queuedIn_iff k i)
      | hold p => exact (m2 p i).trans (h.placed_isHeldOf_iff p i)
      | filling p => exact (m3 p i).trans (h.placed_isFillingOf_iff p i)
      | stack p => exact (m4 p i).trans (h.placed_isStackedOf_iff p i)
      | isolation => exact (m5 i).trans (h.placed_isIsolated_iff i)
  · rintro ⟨n, m⟩
    have m' : ∀ x i, i ∈ h.shelf x ↔ h.shelfOf i = some x := fun x i => by simp [m x i]
    exact
      { queueNodup := fun k => n (.queue k)
        holdNodup := fun p => n (.hold p)
        fillingNodup := fun p => n (.filling p)
        stackNodup := fun p => n (.stack p)
        isolationNodup := n .isolation
        queue := fun k i => (m' (.queue k) i).trans (h.queuedIn_iff k i).symm
        hold := fun p i => (m' (.hold p) i).trans (h.placed_isHeldOf_iff p i).symm
        filling := fun p i => (m' (.filling p) i).trans (h.placed_isFillingOf_iff p i).symm
        stack := fun p i => (m' (.stack p) i).trans (h.placed_isStackedOf_iff p i).symm
        isolation := fun i => (m' .isolation i).trans (h.placed_isIsolated_iff i).symm }

/-! ### Frames taken from their shelves and put on them -/

section Moves
variable {h g : Hub} {out : List FrameId} {i : FrameId} {x : Shelf}

theorem Hub.FiledBut.mem_nil (hf : h.FiledBut []) : i ∈ h.shelf x ↔ h.shelfOf i = some x := by
  simp [hf.mem]

/-- Reordering within shelves files every frame as before. -/
theorem Hub.FiledBut.congr (hf : h.FiledBut out) (shelves : ∀ y, (g.shelf y).Perm (h.shelf y))
    (places : ∀ j, g.shelfOf j = h.shelfOf j) : g.FiledBut out :=
  ⟨fun y => (shelves y).nodup_iff.mpr (hf.nodup y), fun y j => by rw [(shelves y).mem_iff, hf.mem, places]⟩

/-- Frames leave their shelves. -/
theorem Hub.FiledBut.takeAll (hf : h.FiledBut []) (shelves : ∀ y, (g.shelf y).Sublist (h.shelf y))
    (taken : ∀ y j, j ∈ g.shelf y ↔ j ∈ h.shelf y ∧ j ∉ out) (places : ∀ j, g.shelfOf j = h.shelfOf j) :
    g.FiledBut out :=
  ⟨fun y => (hf.nodup y).sublist (shelves y), fun y j => by rw [taken, hf.mem_nil, places, and_comm]⟩

/-- A frame leaves its shelf. -/
theorem Hub.FiledBut.take (hf : h.FiledBut out) (stood : h.shelfOf i = some x)
    (shelves : ∀ y, g.shelf y = if y = x then (h.shelf y).erase i else h.shelf y)
    (places : ∀ j, g.shelfOf j = h.shelfOf j) : g.FiledBut (i :: out) := by
  refine ⟨fun y => ?_, fun y j => ?_⟩
  · rw [shelves]
    split
    · exact (hf.nodup y).erase i
    · exact hf.nodup y
  · rw [shelves, places, List.mem_cons, not_or, and_assoc, ← hf.mem]
    split
    · exact (hf.nodup y).mem_erase_iff
    · next hy =>
      refine ⟨fun hj => ⟨fun e => hy ?_, hj⟩, And.right⟩
      subst e
      exact Option.some.inj (((hf.mem y j).mp hj).2.symm.trans stood)

/-- A frame that is out is put on the shelf of its new state. -/
theorem Hub.FiledBut.put (hf : h.FiledBut (i :: out)) (hi : i ∉ out)
    (stood : g.shelfOf i = some x) (shelves : ∀ y, (g.shelf y).Perm (if y = x then i :: h.shelf y else h.shelf y))
    (places : ∀ j, j ≠ i → g.shelfOf j = h.shelfOf j) : g.FiledBut out := by
  have outside : ∀ y, i ∉ h.shelf y := fun y hy => by simpa using ((hf.mem y i).mp hy).1
  refine ⟨fun y => (shelves y).nodup_iff.mpr ?_, fun y j => ?_⟩
  · split
    · exact List.nodup_cons.mpr ⟨outside y, hf.nodup y⟩
    · exact hf.nodup y
  · rw [(shelves y).mem_iff]
    by_cases e : j = i
    · subst e
      rw [stood, and_iff_right hi, Option.some.injEq]
      split
      · next hy => simp [hy]
      · next hy => exact ⟨fun hj => absurd hj (outside y), fun hx => absurd hx.symm hy⟩
    · rw [places j e, show (j ∈ if y = x then i :: h.shelf y else h.shelf y) ↔ j ∈ h.shelf y by
        split <;> simp [e], hf.mem]
      simp [e]

/-- A frame that is out and FREE has no shelf to stand on. -/
theorem Hub.FiledBut.drop (hf : h.FiledBut (i :: out)) (shelves : ∀ y, g.shelf y = h.shelf y)
    (freed : g.shelfOf i = none) (places : ∀ j, j ≠ i → g.shelfOf j = h.shelfOf j) : g.FiledBut out := by
  refine ⟨fun y => shelves y ▸ hf.nodup y, fun y j => ?_⟩
  rw [shelves, hf.mem]
  by_cases e : j = i
  · subst e; simp [freed]
  · simp [e, places j e]

/-- A FREE frame stands on no shelf, and so is out. -/
theorem Hub.FiledBut.out_of_free (hf : h.FiledBut out) (freed : h.shelfOf i = none) : h.FiledBut (i :: out) := by
  refine ⟨hf.nodup, fun y j => ?_⟩
  rw [hf.mem, List.mem_cons, not_or, and_assoc]
  refine ⟨fun ⟨hj, hy⟩ => ⟨fun e => ?_, hj, hy⟩, And.right⟩
  subst e
  rw [freed] at hy
  cases hy

end Moves

/-! ### What leaves every shelf alone -/

/-- A port with the same hold set, filling list and stack. -/
def Port.SameLists (x y : Port) : Prop := y.hold = x.hold ∧ y.filling = x.filling ∧ y.stack = x.stack

section Quiet
variable {h g : Hub} {out : List FrameId}

theorem Hub.shelf_congr (queues : ∀ k, (g.cls k).queue = (h.cls k).queue)
    (lists : ∀ p, (h.port p).SameLists (g.port p)) (isolation : g.isolation = h.isolation) (y : Shelf) :
    g.shelf y = h.shelf y := by
  cases y with
  | queue k => exact queues k
  | hold p => exact (lists p).1
  | filling p => exact (lists p).2.1
  | stack p =>
    obtain ⟨-, -, stack⟩ := lists p
    exact congrArg (List.map StackEntry.frame) stack
  | isolation => exact isolation

theorem Hub.shelfOf_congr (ctx : ∀ j, g.ctx j = h.ctx j) (j : FrameId) : g.shelfOf j = h.shelfOf j :=
  congrArg (Option.map Context.shelf) (ctx j)

theorem Hub.FiledBut.quiet (hf : h.FiledBut out) (queues : ∀ k, (g.cls k).queue = (h.cls k).queue)
    (lists : ∀ p, (h.port p).SameLists (g.port p)) (isolation : g.isolation = h.isolation)
    (places : ∀ j, g.shelfOf j = h.shelfOf j) : g.FiledBut out :=
  hf.congr (fun y => (Hub.shelf_congr queues lists isolation y).symm ▸ .refl _) places

theorem Port.SameLists.refl (x : Port) : x.SameLists x := ⟨rfl, rfl, rfl⟩

theorem Port.told_sameLists (x : Port) (ns : List Notice) : x.SameLists (x.told ns) :=
  let ⟨_, _, _, hold, filling, stack, _, _⟩ := x.told_rest ns
  ⟨hold, filling, stack⟩

theorem Hub.updPort_sameShelf {p : PortId} {f : Port → Port} (hs : ∀ x : Port, x.SameLists (f x)) (y : Shelf) :
    (h.updPort p f).shelf y = h.shelf y :=
  Hub.shelf_congr (h := h) (g := h.updPort p f) (fun _ => rfl)
    (fun q => by
      rw [Hub.updPort_port]
      split
      · next e => subst e; exact hs _
      · exact .refl _) rfl y

theorem Hub.FiledBut.updPort (hf : h.FiledBut out) {p : PortId} {f : Port → Port}
    (hs : ∀ x : Port, x.SameLists (f x)) : (h.updPort p f).FiledBut out :=
  hf.congr (fun y => (Hub.updPort_sameShelf hs y).symm ▸ .refl _) fun _ => rfl

theorem Hub.FiledBut.with_waitList (hf : h.FiledBut out) (l : List PortId) :
    Hub.FiledBut { h with waitList := l } out :=
  hf.quiet (fun _ => rfl) (fun _ => .refl _) rfl fun _ => rfl

theorem Hub.FiledBut.post (hf : h.FiledBut out) (p : PortId) (n : Notice) : (h.post p n).FiledBut out := by
  obtain ⟨-, -, classes, ctx, -, -, -, -, isolation⟩ := h.post_rest p n
  refine hf.quiet (fun k => by rw [classes]) (fun q => ?_) isolation (Hub.shelfOf_congr ctx)
  rw [Hub.post_port]
  split
  · next e => subst e; exact Port.told_sameLists ..
  · exact .refl _

theorem Hub.FiledBut.postReady (hf : h.FiledBut out) (k : ClassId) : (h.postReady k).FiledBut out := by
  obtain ⟨-, -, classes, ctx, -, -, -, -, isolation⟩ := h.postReady_rest k
  refine hf.quiet (fun k => by rw [classes]) (fun q => ?_) isolation (Hub.shelfOf_congr ctx)
  rw [Hub.postReady_port]
  exact Port.told_sameLists ..

theorem Hub.FiledBut.postIsolated (hf : h.FiledBut out) (i : FrameId) (c : Context) (r : IsoReason) :
    (h.postIsolated i c r).FiledBut out := by
  unfold Hub.postIsolated
  dsimp only
  split
  · split
    · exact hf.post ..
    · exact (hf.post ..).post ..
  · exact hf.post ..

theorem Hub.FiledBut.endWait (hf : h.FiledBut out) (p : PortId) (r : ClaimRec) : (h.endWait p r).FiledBut out :=
  (hf.updPort (f := fun x => { x with claim := r }) fun _ => ⟨rfl, rfl, rfl⟩).with_waitList _

theorem Hub.FiledBut.setLatch (hf : h.FiledBut out) (p : PortId) (l : Latch) : (h.setLatch p l).FiledBut out :=
  hf.updPort fun _ => ⟨rfl, rfl, rfl⟩

theorem Hub.FiledBut.beginWait (hf : h.FiledBut out) (p : PortId) (m : ClassSet) (n : Nat) :
    (h.beginWait p m n).FiledBut out :=
  (hf.updPort (f := fun x => { x with claim := .waiting m n }) fun _ => ⟨rfl, rfl, rfl⟩).with_waitList _

theorem Hub.FiledBut.endSession (hf : h.FiledBut out) (p : PortId) : (h.endSession p).FiledBut out := by
  have cancelled : (h.cancelPending p).FiledBut out := by
    unfold Hub.cancelPending
    split
    · exact (hf.post ..).updPort fun _ => ⟨rfl, rfl, rfl⟩
    · exact hf
  exact cancelled.updPort fun _ => ⟨rfl, rfl, rfl⟩

theorem Hub.FiledBut.lapse (hf : h.FiledBut out) (p : PortId) (n : Urgent) : (h.lapse p n).FiledBut out :=
  ((hf.updPort (f := fun x => { x with latch := .clear }) fun _ => ⟨rfl, rfl, rfl⟩).post
    n.requester (.preemptExpired p n.cls)).post p (.preemptWithdrawn n.requester n.cls)

theorem Hub.FiledBut.postUrgent (hf : h.FiledBut out) (t : PortId) (n : Urgent) :
    (h.postUrgent t n).1.FiledBut out := by
  unfold Hub.postUrgent
  split
  · exact hf.setLatch ..
  · exact hf
  · exact hf.setLatch ..
  · exact hf

/-- A frame whose fields change within its state and class stays on its shelf. -/
theorem Hub.FiledBut.putCtx (hf : h.FiledBut out) {i : FrameId} {c d : Context} (hc : h.ctx i = some c)
    (hd : d.shelf = c.shelf) : (h.putCtx i d).FiledBut out := by
  refine hf.quiet (fun _ => rfl) (fun _ => .refl _) rfl fun j => ?_
  unfold Hub.shelfOf
  rw [Hub.ctx_putCtx]
  split
  · next e => subst e; rw [hc, Option.map_some, Option.map_some, hd]
  · rfl

end Quiet

/-! ### The shelves that change -/

section Shelves
variable (h : Hub) (p : PortId) (i : FrameId)

/-- The shelves after a port's lists change: those of that port as given, and every other as it was. -/
theorem Hub.updPort_shelf {h : Hub} {p : PortId} {f : Port → Port} {F : Shelf → List FrameId}
    (hold : F (.hold p) = (f (h.port p)).hold) (filling : F (.filling p) = (f (h.port p)).filling)
    (stack : F (.stack p) = (f (h.port p)).stack.map StackEntry.frame)
    (others : ∀ y, y ≠ .hold p → y ≠ .filling p → y ≠ .stack p → F y = h.shelf y) (y : Shelf) :
    (h.updPort p f).shelf y = F y := by
  cases y with
  | hold q =>
    by_cases e : q = p
    · subst e; simp [Hub.shelf, hold]
    · rw [others (.hold q) (by simp [e]) (by simp) (by simp)]; simp [Hub.shelf, e]
  | filling q =>
    by_cases e : q = p
    · subst e; simp [Hub.shelf, filling]
    · rw [others (.filling q) (by simp) (by simp [e]) (by simp)]; simp [Hub.shelf, e]
  | stack q =>
    by_cases e : q = p
    · subst e; simp [Hub.shelf, stack]
    · rw [others (.stack q) (by simp) (by simp) (by simp [e])]; simp [Hub.shelf, e]
  | queue k => exact (others (.queue k) (by simp) (by simp) (by simp)).symm
  | isolation => exact (others .isolation (by simp) (by simp) (by simp)).symm

theorem Hub.leaveFilling_shelf : ∀ y,
    (h.leaveFilling p i).shelf y = if y = .filling p then (h.shelf y).erase i else h.shelf y :=
  Hub.updPort_shelf rfl (if_pos rfl) rfl fun _ _ hy _ => if_neg hy

theorem Hub.leaveHold_shelf : ∀ y,
    (h.leaveHold p i).shelf y = if y = .hold p then (h.shelf y).erase i else h.shelf y :=
  Hub.updPort_shelf (if_pos rfl) rfl rfl fun _ hy _ _ => if_neg hy

/-- Removing the entry of a frame from a stack removes the frame from those it lists (R103). -/
theorem map_frame_eraseP (l : List StackEntry) (i : FrameId) :
    (l.eraseP (fun e => e.frame == i)).map StackEntry.frame = (l.map StackEntry.frame).erase i := by
  induction l with
  | nil => rfl
  | cons e l ih => by_cases he : e.frame = i <;> simp [he, ih]

theorem Hub.leaveStack_shelf : ∀ y,
    (h.leaveStack p i).shelf y = if y = .stack p then (h.shelf y).erase i else h.shelf y :=
  Hub.updPort_shelf rfl rfl ((if_pos rfl).trans (map_frame_eraseP ..).symm) fun _ _ _ hy => if_neg hy

theorem Hub.leaveIsolation_shelf (y : Shelf) :
    (h.leaveIsolation i).shelf y = if y = .isolation then (h.shelf y).erase i else h.shelf y := by
  cases y <;> rfl

theorem Hub.enterHold_shelf (c : Context) : ∀ y,
    (h.enterHold i c p).shelf y = if y = .hold p then h.shelf y ++ [i] else h.shelf y :=
  Hub.updPort_shelf (h := h.putCtx i _) (if_pos rfl) rfl rfl fun _ hy _ _ => if_neg hy

theorem Hub.enterHold_ctx (c : Context) (j : FrameId) :
    (h.enterHold i c p).ctx j = if j = i then some { c with place := .held p false } else h.ctx j := by
  simp [Hub.enterHold]

/-- The shelf of a frame after one frame's fields were replaced. -/
theorem Hub.shelfOf_of_ctx {h g : Hub} {i : FrameId} {d : Option Context}
    (ctx : ∀ j, g.ctx j = if j = i then d else h.ctx j) :
    g.shelfOf i = d.map Context.shelf ∧ ∀ j, j ≠ i → g.shelfOf j = h.shelfOf j := by
  refine ⟨by rw [Hub.shelfOf, ctx, if_pos rfl], fun j hj => ?_⟩
  rw [Hub.shelfOf, ctx, if_neg hj, Hub.shelfOf]

theorem insertHead_perm (eff : FrameId → Prio) (b : Prio) (new q : List FrameId) :
    (insertHead eff b new q).Perm (new ++ q) := by
  unfold insertHead
  rw [List.append_assoc]
  refine List.perm_append_comm_assoc .. |>.trans ?_
  rw [List.takeWhile_append_dropWhile]

theorem insertTail_perm (eff : FrameId → Prio) (b : Prio) (new q : List FrameId) :
    (insertTail eff b new q).Perm (new ++ q) := by
  unfold insertTail
  rw [List.append_assoc]
  refine List.perm_append_comm_assoc .. |>.trans ?_
  rw [List.takeWhile_append_dropWhile]

/-- At the head of its band or at the tail, a frame joins its queue (R25, R26). -/
theorem insert_perm (atHead : Bool) (eff : FrameId → Prio) (b : Prio) (i : FrameId) (q : List FrameId) :
    (if atHead then insertHead eff b [i] q else insertTail eff b [i] q).Perm (i :: q) := by
  split
  · exact insertHead_perm ..
  · exact insertTail_perm ..

end Shelves

/-! ### The shared operations -/

section Operations
variable {h : Hub} {out : List FrameId} {i : FrameId} {c d : Context}

theorem Hub.shelfOf_eq (hc : h.ctx i = some c) : h.shelfOf i = some c.shelf := by rw [Hub.shelfOf, hc]; rfl

/-- An owned frame leaves its owner (R39, R58, R103). -/
theorem Hub.FiledBut.leaveOwner (hf : h.FiledBut out) (hc : h.ctx i = some c) {p : PortId}
    (owned : c.place.owner = some p) (hd : d.place = c.place) : (h.leaveOwner i d).FiledBut (i :: out) := by
  have stood : h.shelfOf i = some c.shelf := Hub.shelfOf_eq hc
  unfold Hub.leaveOwner
  unfold Context.shelf at stood
  rw [hd]
  cases hp : c.place with
  | filling o n => rw [hp] at stood; exact hf.take stood (h.leaveFilling_shelf o i) fun _ => rfl
  | held o m => rw [hp] at stood; exact hf.take stood (h.leaveHold_shelf o i) fun _ => rfl
  | stacked o => rw [hp] at stood; exact hf.take stood (h.leaveStack_shelf o i) fun _ => rfl
  | queued e w => rw [hp] at owned; cases owned
  | isolated r => rw [hp] at owned; cases owned

theorem Hub.FiledBut.leaveIsolation (hf : h.FiledBut out) (hc : h.ctx i = some c)
    (isolated : c.place.isIsolated = true) : (h.leaveIsolation i).FiledBut (i :: out) := by
  refine hf.take (x := .isolation) ?_ (h.leaveIsolation_shelf i) fun _ => rfl
  rw [Hub.shelfOf_eq hc]
  unfold Context.shelf
  cases hp : c.place <;> simp_all [Place.isIsolated]

theorem Hub.FiledBut.enterHold (hf : h.FiledBut (i :: out)) (hi : i ∉ out) (c : Context) (p : PortId) :
    (h.enterHold i c p).FiledBut out := by
  obtain ⟨stood, places⟩ := Hub.shelfOf_of_ctx (h.enterHold_ctx p i c)
  refine hf.put (x := .hold p) hi stood (fun y => ?_) places
  rw [Hub.enterHold_shelf]
  split_ifs
  · exact List.perm_append_singleton ..
  · exact .refl _

theorem Hub.FiledBut.grant (hf : h.FiledBut (i :: out)) (hi : i ∉ out) (c : Context) (q : PortId) :
    (h.grant i c q).FiledBut out :=
  ((hf.enterHold hi c q).updPort (f := fun x => { x with claim := .granted (h.handle i) })
    fun _ => ⟨rfl, rfl, rfl⟩).with_waitList _

/-- A frame that is out and is inserted in its queue stands on that shelf (R25). -/
theorem Hub.FiledBut.enqueue (hf : h.FiledBut (i :: out)) (hi : i ∉ out) (c : Context) (cause : Cause) :
    (h.enqueue i c cause).FiledBut out := by
  have inserted : ∀ q : List FrameId, q.Perm (i :: (h.cls c.control.cls).queue) →
      ((h.putCtx i { c with cause := some cause, place := .queued c.control.base 0 }).updClass c.control.cls
        (fun x => { x with queue := q })).FiledBut out := by
    intro q hq
    obtain ⟨stood, places⟩ := Hub.shelfOf_of_ctx
      (h.ctx_putCtx i · { c with cause := some cause, place := .queued c.control.base 0 })
    refine hf.put (x := .queue c.control.cls) hi stood (fun y => ?_) places
    cases y with
    | queue k =>
      by_cases e : k = c.control.cls
      · subst e; simpa [Hub.shelf] using hq
      · simp [Hub.shelf, e]
    | _ => simp [Hub.shelf]
  unfold Hub.enqueue
  dsimp only
  split
  · exact (inserted _ (insert_perm ..)).postReady _
  · exact inserted _ (insert_perm ..)

theorem Hub.FiledBut.makeAvailable (hf : h.FiledBut (i :: out)) (hi : i ∉ out) (c : Context) (cause : Cause)
    (passed : Option PortId) : (h.makeAvailable i c cause passed).1.FiledBut out := by
  unfold Hub.makeAvailable
  split
  · exact hf.grant hi _ _
  · exact hf.enqueue hi c cause

/-- An owned frame goes to the tail of the Isolation List (R20, R160). -/
theorem Hub.FiledBut.isolate (hf : h.FiledBut []) (hc : h.ctx i = some c) {p : PortId}
    (owned : c.place.owner = some p) (hd : d.place = c.place) (r : IsoReason) : (h.isolate i d r).FiledBut [] := by
  have left := hf.leaveOwner hc owned hd
  obtain ⟨stood, places⟩ := Hub.shelfOf_of_ctx ((h.leaveOwner i d).ctx_putCtx i · { d with place := .isolated r })
  have listed := left.put (g := { (h.leaveOwner i d).putCtx i { d with place := .isolated r } with
      isolation := (h.leaveOwner i d).isolation ++ [i] }) (x := .isolation) List.not_mem_nil stood (fun y => by
    cases y with
    | isolation => exact List.perm_append_singleton ..
    | _ => exact .refl _) places
  exact listed.postIsolated i d r

theorem Hub.FiledBut.freeFrame (hf : h.FiledBut (i :: out)) (c : Context) : (h.freeFrame i c).FiledBut out := by
  obtain ⟨ports, -, -, isolation⟩ := h.freeFrame_rest i c
  obtain ⟨freed, places⟩ := Hub.shelfOf_of_ctx (h.freeFrame_ctx i c)
  refine hf.drop (Hub.shelf_congr (fun k => ?_) (fun p => ?_) isolation) freed places
  · rw [Hub.freeFrame_cls]
    split <;> rfl
  · rw [ports]
    exact .refl _

/-- A queued frame is claimed (R63). -/
theorem Hub.FiledBut.claimFrame (hf : h.FiledBut []) {k : ClassId} (queued : i ∈ (h.cls k).queue)
    (hc : h.ctx i = some c) (p : PortId) : (h.claimFrame p i c).FiledBut [] := by
  have stood : h.shelfOf i = some (.queue k) := hf.mem_nil.mp queued
  have hk : c.control.cls = k := by
    rw [Hub.shelfOf_eq hc, Context.shelf] at stood
    split at stood <;> cases stood
    rfl
  have left : (h.updClass c.control.cls (fun x => { x with queue := x.queue.erase i })).FiledBut [i] := by
    refine hf.take stood (fun y => ?_) fun _ => rfl
    cases y with
    | queue l => by_cases e : l = k <;> simp [Hub.shelf, hk, e]
    | _ => simp [Hub.shelf]
  exact left.enterHold List.not_mem_nil c p

/-! ### The fence -/

/-- The frames of a filling list are freed together (R140). -/
theorem Hub.FiledBut.freeFilling (hf : h.FiledBut []) (p : PortId) :
    ((h.freeAll (h.port p).filling).updPort p (fun x => { x with filling := [] })).FiledBut [] := by
  obtain ⟨ports, queues, -, -, isolation⟩ := h.freeAll_rest (h.port p).filling
  have shelves : ∀ y, ((h.freeAll (h.port p).filling).updPort p (fun x => { x with filling := [] })).shelf y =
      if y = .filling p then [] else h.shelf y := by
    have freed := Hub.shelf_congr queues (fun q => by rw [ports]; exact .refl _) isolation
    exact Hub.updPort_shelf (freed (.hold p)).symm (if_pos rfl) (freed (.stack p)).symm
      fun y _ hy _ => (if_neg hy).trans (freed y).symm
  refine ⟨fun y => ?_, fun y j => ?_⟩
  · rw [shelves]
    split
    · exact List.nodup_nil
    · exact hf.nodup y
  · have listed : j ∈ (h.port p).filling ↔ h.shelfOf j = some (.filling p) := hf.mem_nil (x := .filling p)
    have place : ((h.freeAll (h.port p).filling).updPort p (fun x => { x with filling := [] })).shelfOf j =
        if j ∈ (h.port p).filling then none else h.shelfOf j := by
      rw [Hub.shelfOf, Hub.ctx_updPort, Hub.freeAll_ctx]
      split <;> rfl
    rw [shelves, place, and_iff_right List.not_mem_nil]
    by_cases hj : j ∈ (h.port p).filling
    · have stood := listed.mp hj
      rw [if_pos hj]
      split
      · simp
      · next hy => simp [hf.mem_nil, stood, Ne.symm hy]
    · rw [if_neg hj]
      split
      · next hy => subst hy; simpa using mt listed.mpr hj
      · exact hf.mem_nil

theorem Hub.FiledBut.fenceLatch (hf : h.FiledBut out) (p : PortId) : (h.fenceLatch p).FiledBut out := by
  have posted : ∀ (l : List Urgent) {g : Hub}, g.FiledBut out →
      (l.foldl (fun g n => g.post n.requester (.preemptCancelled p n.cls)) g).FiledBut out := by
    intro l
    induction l with
    | nil => exact id
    | cons n l ih => exact fun hg => ih (hg.post ..)
  exact (posted _ hf).updPort fun _ => ⟨rfl, rfl, rfl⟩

/-- A frame that the fence took from its port is filed again (R143). -/
theorem Hub.FiledBut.reclaim (hf : h.FiledBut (i :: out)) (hi : i ∉ out) (p : PortId) :
    (h.reclaim p i).FiledBut out := by
  unfold Hub.reclaim
  split
  · next hc => exact hf.drop (fun _ => rfl) (by rw [Hub.shelfOf, hc]; rfl) fun _ _ => rfl
  · dsimp only
    split
    · exact hf.makeAvailable hi ..
    · exact (hf.makeAvailable hi ..).post ..

theorem Hub.FiledBut.foldl_reclaim {l : List FrameId} (hf : h.FiledBut l) (hl : l.Nodup) (p : PortId) :
    (l.foldl (fun g i => g.reclaim p i) h).FiledBut [] := by
  induction l generalizing h with
  | nil => exact hf
  | cons i l ih =>
    obtain ⟨hi, hl⟩ := List.nodup_cons.mp hl
    exact ih (hf.reclaim hi p) hl

/-- A port holds no frame that it also stacks. -/
theorem Hub.FiledBut.reclaimOrder_nodup (hf : h.FiledBut []) (p : PortId) : (h.port p).reclaimOrder.Nodup := by
  refine List.nodup_append'.mpr ⟨List.nodup_reverse.mpr (hf.nodup (.hold p)), hf.nodup (.stack p), fun j hj hj' => ?_⟩
  have h1 : h.shelfOf j = some (.hold p) := hf.mem_nil.mp (List.mem_reverse.mp hj)
  have h2 : h.shelfOf j = some (.stack p) := hf.mem_nil.mp hj'
  cases h1.symm.trans h2

theorem Hub.FiledBut.fenceReclaim (hf : h.FiledBut []) (p : PortId) : (h.fenceReclaim p).FiledBut [] := by
  refine Hub.FiledBut.foldl_reclaim ?_ (hf.reclaimOrder_nodup p) p
  have shelves : ∀ y, (h.updPort p (fun x => { x with hold := [], stack := [] })).shelf y =
      if y = .hold p ∨ y = .stack p then [] else h.shelf y :=
    Hub.updPort_shelf (if_pos (.inl rfl)) rfl (if_pos (.inr rfl)) fun _ hy _ hy' => if_neg (not_or.mpr ⟨hy, hy'⟩)
  have order : ∀ j, j ∈ (h.port p).reclaimOrder ↔
      h.shelfOf j = some (.hold p) ∨ h.shelfOf j = some (.stack p) := by
    intro j
    rw [Port.reclaimOrder, List.mem_append, List.mem_reverse]
    exact or_congr (hf.mem_nil (x := .hold p)) (hf.mem_nil (x := .stack p))
  refine hf.takeAll (fun y => ?_) (fun y j => ?_) fun _ => rfl
  · rw [shelves]
    split
    · exact List.nil_sublist _
    · exact .refl _
  · rw [shelves, order, hf.mem_nil]
    split
    · next hy => rcases hy with rfl | rfl <;> simp +contextual
    · next hy =>
      rw [hf.mem_nil]
      refine ⟨fun e => ⟨e, fun hj => hy ?_⟩, And.left⟩
      simpa [e] using hj

theorem Hub.FiledBut.fence (hf : h.FiledBut []) (p : PortId) (why : FenceReason) : (h.fence p why).FiledBut [] := by
  have fenced := hf.updPort (p := p) (f := fun x => { x with state := .fenced }) fun _ => ⟨rfl, rfl, rfl⟩
  have freed := fenced.freeFilling p
  rw [show ((h.updPort p fun x => { x with state := .fenced }).port p).filling = (h.port p).filling by simp] at freed
  have ended := ((freed.endWait p .none).fenceLatch p).fenceReclaim p
  exact ended.updPort (f := fun y => { y with notices := [(h.port p).fenceReport why] }) fun _ => ⟨rfl, rfl, rfl⟩

/-! ### Stacks and preemption -/

theorem Hub.stackFrame_shelf (h : Hub) (p : PortId) (i : FrameId) (y : Shelf) :
    (h.stackFrame p i).shelf y = h.shelf y := by
  obtain ⟨ports, classes, -, -, isolation⟩ := h.stackFrame_rest p i
  exact Hub.shelf_congr (fun k => by rw [classes]) (fun q => by rw [ports]; exact .refl _) isolation y

theorem Hub.FiledBut.pushVoluntary (hf : h.FiledBut []) (hc : h.ctx i = some c) {p : PortId}
    (held : c.place.isHeldOf p = true) : (h.pushVoluntary p i).FiledBut [] := by
  have left : (h.leaveHold p i).FiledBut [i] := by
    rw [Hub.leaveHold_eq_leaveOwner held]
    exact hf.leaveOwner hc (Place.owner_of_isHeldOf held) rfl
  have ctx : ∀ j, (h.pushVoluntary p i).ctx j =
      if j = i then some { c with place := .stacked p } else (h.leaveHold p i).ctx j := by
    intro j
    simp only [Hub.pushVoluntary, Hub.ctx_updPort, Hub.stackFrame_ctx]
    split
    · rw [Hub.leaveHold, Hub.ctx_updPort, hc]; rfl
    · rfl
  obtain ⟨stood, places⟩ := Hub.shelfOf_of_ctx ctx
  have stacked := fun y => (h.leaveHold p i).stackFrame_shelf p i y
  have shelves : ∀ y, (h.pushVoluntary p i).shelf y =
      if y = .stack p then i :: (h.leaveHold p i).shelf y else (h.leaveHold p i).shelf y :=
    Hub.updPort_shelf (stacked (.hold p)).symm (stacked (.filling p)).symm
      ((if_pos rfl).trans (congrArg (i :: ·) (stacked (.stack p)).symm)) fun y _ _ hy => (if_neg hy).trans (stacked y).symm
  exact left.put (x := .stack p) List.not_mem_nil stood (fun y => .of_eq (shelves y)) places

/-- A frame that is out comes into a hold set, or is FREE (R60, R101). -/
theorem Hub.FiledBut.resumeFrame (hf : h.FiledBut (i :: out)) (hi : i ∉ out) (p : PortId) :
    (h.resumeFrame p i).FiledBut out := by
  unfold Hub.resumeFrame
  split
  · exact hf.enterHold hi _ p
  · next hc => exact hf.drop (fun _ => rfl) (by rw [Hub.shelfOf, hc]; rfl) fun _ _ => rfl

theorem Hub.FiledBut.resumeTop (hf : h.FiledBut []) {p : PortId} {e : StackEntry} {rest : List StackEntry}
    (top : (h.port p).stack = e :: rest) :
    ((h.updPort p (fun x => { x with stack := rest })).resumeFrame p e.frame).FiledBut [] := by
  have stood : h.shelfOf e.frame = some (.stack p) := hf.mem_nil.mp (by simp [Hub.shelf, top])
  have left : (h.updPort p (fun x => { x with stack := rest })).FiledBut [e.frame] := by
    refine hf.take stood (Hub.updPort_shelf rfl rfl ?_ fun _ _ _ hy => if_neg hy) fun _ => rfl
    simp [Hub.shelf, top]
  exact left.resumeFrame List.not_mem_nil p

theorem map_frame_savedEntries (l : List FrameId) : (savedEntries l).map StackEntry.frame = l.reverse := by
  simp [savedEntries, Function.comp_def]

/-- The hold set is saved on the stack (R116). -/
theorem Hub.FiledBut.saveHold (hf : h.FiledBut []) (p : PortId) : (h.saveHold p).FiledBut [] := by
  obtain ⟨ports, classes, -, -, isolation⟩ := h.foldl_stackFrame_rest p (h.port p).hold
  have stacked := Hub.shelf_congr (fun k => by rw [classes]) (fun q => by rw [ports]; exact .refl _) isolation
  have shelves : ∀ y, (h.saveHold p).shelf y =
      if y = .hold p then [] else if y = .stack p then (h.port p).reclaimOrder else h.shelf y := by
    refine Hub.updPort_shelf (if_pos rfl) (stacked (.filling p)).symm ?_ fun y hy _ hy' =>
      (if_neg hy).trans ((if_neg hy').trans (stacked y).symm)
    simp [ports, map_frame_savedEntries, Port.reclaimOrder]
  refine ⟨fun y => ?_, fun y j => ?_⟩
  · rw [shelves]
    split_ifs
    · exact List.nodup_nil
    · exact hf.reclaimOrder_nodup p
    · exact hf.nodup y
  · have held : j ∈ (h.port p).hold ↔ h.shelfOf j = some (.hold p) := hf.mem_nil (x := .hold p)
    have saved : j ∈ (h.port p).stack.map (·.frame) ↔ h.shelfOf j = some (.stack p) := hf.mem_nil (x := .stack p)
    have place : (h.saveHold p).shelfOf j =
        if j ∈ (h.port p).hold then some (.stack p) else h.shelfOf j := by
      rw [Hub.shelfOf, Hub.saveHold, Hub.ctx_updPort, Hub.foldl_stackFrame_ctx]
      split
      · next hj =>
        obtain ⟨c, hc, -⟩ := Option.map_eq_some_iff.mp (held.mp hj)
        rw [hc]; rfl
      · rfl
    have order : j ∈ (h.port p).reclaimOrder ↔
        h.shelfOf j = some (.hold p) ∨ h.shelfOf j = some (.stack p) := by
      rw [Port.reclaimOrder, List.mem_append, List.mem_reverse, held, saved]
    rw [shelves, place, and_iff_right List.not_mem_nil]
    by_cases hj : h.shelfOf j = some (.hold p)
    · rw [if_pos (held.mpr hj)]
      split_ifs with h1 h2
      · subst h1; simp
      · subst h2; simp [hj, order]
      · simp [hj, hf.mem_nil, Ne.symm h1, Ne.symm h2]
    · rw [if_neg (mt held.mp hj)]
      split_ifs with h1 h2
      · subst h1; simp [hj]
      · subst h2; simp [hj, order]
      · exact hf.mem_nil

theorem Hub.FiledBut.beginService (hf : h.FiledBut []) (p : PortId) (n : Urgent) :
    (h.beginService p n).FiledBut [] := ((hf.saveHold p).setLatch ..).post ..

theorem Hub.FiledBut.deal {t : EndTally} (hf : t.hub.FiledBut (i :: out)) (hi : i ∉ out) (p : PortId) :
    (t.deal p i).hub.FiledBut out := by
  unfold EndTally.deal
  split
  · next hc => exact hf.drop (fun _ => rfl) (by rw [Hub.shelfOf, hc]; rfl) fun _ _ => rfl
  · split
    · exact hf.enterHold hi _ p
    · exact hf.makeAvailable hi ..

theorem Hub.FiledBut.foldl_deal {t : EndTally} {l : List FrameId} (hf : t.hub.FiledBut l) (hl : l.Nodup)
    (p : PortId) : (l.foldl (fun t i => t.deal p i) t).hub.FiledBut [] := by
  induction l generalizing t with
  | nil => exact hf
  | cons i l ih =>
    obtain ⟨hi, hl⟩ := List.nodup_cons.mp hl
    exact ih (hf.deal hi p) hl

/-- In a stack that lists each frame once, the frames of the group are those that the rest does not list. -/
theorem mem_map_frame_filter {l : List StackEntry} (hl : (l.map StackEntry.frame).Nodup) (j : FrameId) :
    j ∈ (l.filter (fun e => e.tag != .preempt)).map StackEntry.frame ↔
      j ∈ l.map StackEntry.frame ∧ j ∉ ((l.filter (fun e => e.tag == .preempt)).map StackEntry.frame) := by
  simp only [List.mem_map, List.mem_filter, bne_iff_ne, beq_iff_eq]
  constructor
  · rintro ⟨e, ⟨he, ht⟩, rfl⟩
    refine ⟨⟨e, he, rfl⟩, ?_⟩
    rintro ⟨e', ⟨he', ht'⟩, hee⟩
    rw [List.inj_on_of_nodup_map hl he' he hee] at ht'
    exact ht ht'
  · rintro ⟨⟨e, he, rfl⟩, hn⟩
    exact ⟨e, ⟨he, fun ht => hn ⟨e, ⟨he, ht⟩, rfl⟩⟩, rfl⟩

/-- The group of a stack leaves it, and each of its frames is filed again (R121). -/
theorem Hub.FiledBut.endService (hf : h.FiledBut []) (p : PortId) (v : Urgent) :
    (h.endService p v).hub.FiledBut [] := by
  have once : ((h.port p).stack.map StackEntry.frame).Nodup := hf.nodup (.stack p)
  have group_nodup : (h.port p).group.Nodup :=
    List.nodup_reverse.mpr (once.sublist (List.filter_sublist.map _))
  have group_stacked : ∀ j ∈ (h.port p).group, h.shelfOf j = some (.stack p) := fun j hj =>
    hf.mem_nil.mp ((List.filter_sublist.map StackEntry.frame).subset (List.mem_reverse.mp hj))
  have left : (h.updPort p (fun x => { x with stack := x.stack.filter (fun e => e.tag != .preempt) })).FiledBut
      (h.port p).group := by
    have shelves : ∀ y,
        (h.updPort p (fun x => { x with stack := x.stack.filter (fun e => e.tag != .preempt) })).shelf y =
          if y = .stack p then ((h.port p).stack.filter (fun e => e.tag != .preempt)).map StackEntry.frame
          else h.shelf y :=
      Hub.updPort_shelf rfl rfl (if_pos rfl) fun _ _ _ hy => if_neg hy
    refine hf.takeAll (fun y => ?_) (fun y j => ?_) fun _ => rfl
    · rw [shelves]
      split
      · next hy => subst hy; exact List.filter_sublist.map _
      · exact .refl _
    · rw [shelves]
      split
      · next hy =>
        subst hy
        rw [mem_map_frame_filter once, Port.group, List.mem_reverse]
        rfl
      · next hy =>
        refine ⟨fun hj => ⟨hj, fun hg => hy ?_⟩, And.left⟩
        exact Option.some.inj ((hf.mem_nil.mp hj).symm.trans (group_stacked j hg))
  have dealt := Hub.FiledBut.foldl_deal (t := ⟨_, [], []⟩) left group_nodup p
  exact (dealt.post v.requester (.preemptDone p v.cls)).setLatch p (h.port p).latchAfter

/-! ### Classes, the tick, parks and writes -/

theorem Hub.FiledBut.restartWaits (hf : h.FiledBut out) (l : List FrameId) : (h.restartWaits l).FiledBut out := by
  induction l generalizing h with
  | nil => exact hf
  | cons i l ih =>
    unfold Hub.restartWaits
    split
    · next c hc =>
      split
      · next hp => exact ih (hf.putCtx hc (by simp only [Context.shelf, hp]))
      · exact ih hf
    · exact ih hf

theorem Hub.FiledBut.setClassRecord (hf : h.FiledBut out) (a : ClassSetArgs) : (h.setClassRecord a).FiledBut out := by
  have set : (h.updClass a.cls (fun x => { x with enabled := a.enabled, limit := a.limit, aging := a.aging })).FiledBut
      out := by
    refine hf.quiet (fun k => ?_) (fun _ => .refl _) rfl fun _ => rfl
    rw [Hub.updClass_cls]
    split
    · next e => rw [e]
    · rfl
  unfold Hub.setClassRecord
  dsimp only
  split
  · exact set
  · exact set.restartWaits _

/-- A frame that is due stands in the queue of its class. -/
theorem Hub.isDue_queued {a : Nat} {b : Prio} {j : FrameId} (hd : h.isDue a b j = true) :
    ∃ c, h.ctx j = some c ∧ c.place.isQueued = true := by
  unfold Hub.isDue at hd
  split at hd
  · next c hc =>
    split at hd
    · next hp => exact ⟨c, hc, by rw [hp]; rfl⟩
    · cases hd
  · cases hd

theorem Hub.dueFrames_queued {k : ClassId} {b : Prio} {j : FrameId} (hj : j ∈ h.dueFrames k b) :
    ∃ c, h.ctx j = some c ∧ c.place.isQueued = true := by
  unfold Hub.dueFrames at hj
  split at hj
  · cases hj
  · exact Hub.isDue_queued (List.mem_filter.mp hj).2

/-- The due frames, put back in with the rest, are the queue in another order. -/
theorem Hub.promoted_perm (h : Hub) (k : ClassId) (b : Prio) :
    (insertTail h.effOf (b + 1) (h.dueFrames k b)
      ((h.cls k).queue.filter (fun i => !(h.dueFrames k b).contains i))).Perm (h.cls k).queue := by
  refine (insertTail_perm ..).trans ?_
  have due : h.dueFrames k b = (h.cls k).queue.filter (fun i => (h.dueFrames k b).contains i) := by
    unfold Hub.dueFrames
    split
    · simp
    · refine List.filter_congr fun j hj => ?_
      rw [Bool.eq_iff_iff]
      simp [hj]
  conv_lhs => enter [1]; rw [due]
  exact List.filter_append_perm ..

/-- A queue takes another order. -/
theorem Hub.FiledBut.requeue (hf : h.FiledBut out) {k : ClassId} {q : List FrameId} (hq : q.Perm (h.cls k).queue) :
    (h.updClass k (fun x => { x with queue := q })).FiledBut out := by
  refine hf.congr (fun y => ?_) fun _ => rfl
  cases y with
  | queue l =>
    by_cases e : l = k
    · subst e; simpa [Hub.shelf] using hq
    · simp [Hub.shelf, e]
  | _ => simp [Hub.shelf]

/-- Queued frames take a new band in their queue. -/
theorem Hub.FiledBut.setBand (hf : h.FiledBut out) (e : Prio) {l : List FrameId}
    (queued : ∀ j ∈ l, ∃ c, h.ctx j = some c ∧ c.place.isQueued = true) : (h.setBand e l).FiledBut out := by
  obtain ⟨ports, classes, -, -, isolation⟩ := h.setBand_rest e l
  refine hf.quiet (fun k => by rw [classes]) (fun p => by rw [ports]; exact .refl _) isolation fun j => ?_
  rw [Hub.shelfOf, Hub.setBand_ctx]
  split
  · next hj =>
    obtain ⟨c, hc, hq⟩ := queued j hj
    rw [Hub.shelfOf, hc]
    cases hp : c.place <;> simp_all [Context.shelf, Place.isQueued]
  · rfl

theorem Hub.FiledBut.promote (hf : h.FiledBut out) (k : ClassId) (b : Prio) : (h.promote k b).FiledBut out := by
  unfold Hub.promote
  dsimp only
  split
  · exact hf
  · exact (hf.requeue (h.promoted_perm k b)).setBand _ fun _ hj => Hub.dueFrames_queued (h := h) hj

theorem Frame.tick_shelf (f : Frame) : f.tick.ctx.map Context.shelf = f.ctx.map Context.shelf := by
  unfold Frame.tick
  split
  · next c hc =>
    split
    · next hp => simp [hc, Context.shelf, hp]
    · rfl
  · rfl

theorem Hub.FiledBut.tick (hf : h.FiledBut out) : h.tick.FiledBut out := by
  refine hf.quiet (fun _ => rfl) (fun p => ?_) rfl fun j => ?_
  · rw [Hub.tick_port]
    exact ⟨rfl, rfl, rfl⟩
  · rw [Hub.shelfOf, Hub.ctx, Hub.tick_frame, Frame.tick_shelf]
    rfl

/-- Every deed files every frame. -/
theorem Hub.Deed.filed {g : Hub} (d : h.Deed g) (hf : h.FiledBut []) : g.FiledBut [] := by
  cases d with
  | join off lease grace => exact hf.updPort fun _ => ⟨rfl, rfl, rfl⟩
  | leave on may => exact hf.endSession _
  | subscribe on => exact hf.updPort fun _ => ⟨rfl, rfl, rfl⟩
  | restartLease => exact hf.updPort fun x => by split <;> exact ⟨rfl, rfl, rfl⟩
  | goOffline off => exact hf.updPort fun _ => ⟨rfl, rfl, rfl⟩
  | @isolate p i c check r on used owned => exact hf.isolate (d := { c with check := check }) used owned rfl r
  | @release p i c check cause passed on used owned =>
    have left : (h.leaveOwner i { c with check := check }).FiledBut [i] := hf.leaveOwner used owned rfl
    exact left.makeAvailable List.not_mem_nil ..
  | @free p i c on used owned => exact (hf.leaveOwner (d := c) used owned rfl).freeFrame c
  | discard used isolated => exact (hf.leaveIsolation used isolated).freeFrame _
  | edit on used owned amends => exact hf.putCtx used (by simp only [Context.shelf, amends.cls])
  | @stayIsolated i c k check r used isolated amends =>
    refine hf.putCtx used ?_
    cases hp : c.place <;> simp_all [Context.shelf, Place.isIsolated]
  | repair used isolated amends => exact (hf.leaveIsolation used isolated).makeAvailable List.not_mem_nil ..
  | claim on room queued used allowed => exact hf.claimFrame queued used _
  | wait on mask time room idle empty => exact hf.beginWait ..
  | endWait ended on => exact hf.endWait ..
  | readClaim result => exact hf.updPort fun _ => ⟨rfl, rfl, rfl⟩
  | suspend on used held room => exact hf.pushVoluntary used held
  | resume on top tag room => exact hf.resumeTop top
  | preempt other on => exact hf.postUrgent ..
  | takePreempt on latch room => exact hf.beginService ..
  | endPreempt on latch held flat room => exact hf.endService ..
  | readNotices => exact hf.updPort fun _ => ⟨rfl, rfl, rfl⟩
  | setClass positive bounded aging closed fits => exact hf.setClassRecord _
  | fence on => exact hf.fence ..
  | lapse latch => exact hf.lapse ..
  | promote => exact hf.promote ..
  | tick => exact hf.tick

/-- A frame that a park opens goes on the filling list of its port (R42). -/
theorem Hub.Opens.filed {g : Hub} (o : h.Opens g) (hf : h.FiledBut []) : g.FiledBut [] := by
  cases o with
  | @park p i c len check on enabled legal positive short filling room lowest space =>
    have unused : h.shelfOf i = none := by rw [Hub.shelfOf, Hub.ctx_of_lowestFree lowest]; rfl
    obtain ⟨stood, places⟩ := Hub.shelfOf_of_ctx (h.openPark_ctx p i c len check)
    refine (hf.out_of_free unused).put (x := .filling p) List.not_mem_nil stood (fun y => ?_) places
    cases y with
    | filling q =>
      by_cases e : q = p
      · subst e; simp [Hub.shelf, Hub.openPark_port]
      · simp [Hub.shelf, Hub.openPark_port, e]
    | hold q => by_cases e : q = p <;> simp [Hub.shelf, Hub.openPark_port, e]
    | stack q => by_cases e : q = p <;> simp [Hub.shelf, Hub.openPark_port, e]
    | queue k => by_cases e : k = c.cls <;> simp [Hub.shelf, Hub.openPark_cls, e]
    | isolation => simp [Hub.shelf]

theorem Hub.FiledBut.storeWords (hf : h.FiledBut out) (c : Context) (k : Nat) (vs : List Word) :
    (h.storeWords c k vs).FiledBut out := by
  obtain ⟨frames, classes, ports, -, isolation⟩ := h.storeWords_rest c k vs
  refine hf.quiet (fun k => by rw [classes]) (fun p => by rw [ports]; exact .refl _) isolation
    (Hub.shelfOf_congr fun j => ?_)
  rw [Hub.ctx, frames, Hub.ctx]

theorem Hub.Writes.filed {g : Hub} (w : h.Writes g) (hf : h.FiledBut []) : g.FiledBut [] := by
  cases w with
  | @fill p i c off ws on used filling fits =>
    refine (hf.storeWords c off ws).putCtx (((h.storeWords_rewrites c off ws).ctx i).trans used) ?_
    cases hp : c.place <;> simp_all [Context.shelf, Place.isFillingOf]
  | @modify p i c off ws on used held =>
    refine (hf.storeWords c off ws).putCtx (((h.storeWords_rewrites c off ws).ctx i).trans used) ?_
    cases hp : c.place <;> simp_all [Context.shelf, Place.isHeldOf]
  | rewrite used isolated => exact hf.storeWords ..
  | strike => exact hf.quiet (fun _ => rfl) (fun _ => .refl _) rfl fun _ => rfl

theorem Hub.reset_filed : Hub.reset.FiledBut [] := by
  have shelves : ∀ y, Hub.reset.shelf y = [] := by
    intro y
    cases y with
    | isolation => rfl
    | _ => simp [Hub.shelf, ClassRec.reset, Port.reset]
  have places : ∀ j, Hub.reset.shelfOf j = none := fun j => by rw [Hub.shelfOf, Hub.ctx, Hub.reset_frame]; rfl
  exact ⟨fun y => by simp [shelves], fun y j => by simp [shelves, places]⟩

end Operations

end Sys2Proof.Machine

/-- Settles O53: every deed takes each frame it moves from its shelf and puts it on the shelf of its new state. -/
theorem stepsKeepEveryFrameFiled : Obligations.StepsKeepEveryFrameFiled := by
  intro s t hf e
  rw [Hub.filed_iff] at hf ⊢
  exact step_keeps (Law := (Hub.FiledBut · [])) Hub.reset_filed (fun hf d => d.filed hf) (fun hf o => o.filed hf)
    (fun hf w => w.filed hf) hf e
end

section
/-!
Every port within its bounds (R39, R59, R96, R97, R109, R149). `Port.Gains` says how a port may change without leaving
its bounds; the shared operations are put in its terms once, and each deed is then a gain or one of the few changes that
put something on a stack or into a latch.
-/
open Sys2Proof Sys2Proof.Machine
namespace Sys2Proof.Machine

/-! ### The law of one port, and how a port may change under it -/

/-- What `Hub.PortsBounded` asks of one port. -/
structure Port.Sound (p : PortId) (x : Port) : Prop where
  bounded : x.Bounded
  group   : x.GroupLegal
  runs    : x.StackInRuns
  others  : ∀ n ∈ x.latch.notices, n.requester ≠ p

theorem Hub.portsBounded_iff (h : Hub) : h.PortsBounded ↔ ∀ p, (h.port p).Sound p :=
  forall_congr' fun _ => ⟨fun ⟨bounded, group, runs, others⟩ => ⟨bounded, group, runs, others⟩,
    fun ⟨bounded, group, runs, others⟩ => ⟨bounded, group, runs, others⟩⟩

/-- A port that holds or waits for at most `n` frames more, and whose other lists only lose entries, or take notices
within their bound; a latch that serves goes on serving, and takes no new notice. -/
structure Port.Gains (n : Nat) (x y : Port) : Prop where
  hold    : y.holdCount ≤ x.holdCount + n
  stack   : y.stack.Sublist x.stack
  filling : y.filling.length ≤ x.filling.length
  notices : x.notices.length ≤ Config.noticeMax → y.notices.length ≤ Config.noticeMax
  serves  : x.latch.isServing = true → y.latch.isServing = true
  latched : y.latch.notices ⊆ x.latch.notices

theorem Port.Gains.refl (x : Port) : x.Gains 0 x := ⟨le_rfl, .refl _, le_rfl, id, id, fun _ h => h⟩

theorem Port.Gains.trans {m n : Nat} {x y z : Port} (a : x.Gains m y) (b : y.Gains n z) : x.Gains (m + n) z where
  hold    := by have := a.hold; have := b.hold; omega
  stack   := b.stack.trans a.stack
  filling := b.filling.trans a.filling
  notices := b.notices ∘ a.notices
  serves  := b.serves ∘ a.serves
  latched := fun _ h => a.latched (b.latched h)

/-- A port whose stack, filling list, notices and latch are as before gains what its hold count rises by. -/
theorem Port.Gains.of_hold {n : Nat} {x y : Port} (hold : y.holdCount ≤ x.holdCount + n) (stack : y.stack = x.stack)
    (filling : y.filling = x.filling) (notices : y.notices = x.notices) (latch : y.latch = x.latch) :
    x.Gains n y where
  hold    := hold
  stack   := by rw [stack]
  filling := by rw [filling]
  notices := by rw [notices]; exact id
  serves  := by rw [latch]; exact id
  latched := by rw [latch]; exact fun _ h => h

/-- R97: a stack stands in its three runs exactly when it is put together from them. -/
theorem Port.stackInRuns_iff (x : Port) : x.StackInRuns ↔ ∃ above group below, x.stack = above ++ (group ++ below) ∧
    (∀ e ∈ above, e.tag = .voluntary) ∧ (∀ e ∈ group, e.tag = .preempt) ∧ ∀ e ∈ below, e.tag = .voluntary := by
  unfold Port.StackInRuns
  simp only [List.all_eq_true, beq_iff_eq]
  constructor
  · intro below
    refine ⟨x.stack.takeWhile (fun e => e.tag == .voluntary),
      (x.stack.dropWhile (fun e => e.tag == .voluntary)).takeWhile (fun e => e.tag == .preempt), _, ?_, fun e he => ?_,
      fun e he => ?_, below⟩
    · rw [List.takeWhile_append_dropWhile, List.takeWhile_append_dropWhile]
    · simpa using List.mem_takeWhile_imp he
    · simpa using List.mem_takeWhile_imp he
  · rintro ⟨above, group, below, hs, ha, hg, hb⟩ e he
    rw [hs, List.dropWhile_append_of_pos (by simpa using ha)] at he
    cases group with
    | nil =>
      rw [List.nil_append] at he
      exact hb e ((List.dropWhile_sublist _).subset ((List.dropWhile_sublist _).subset he))
    | cons f group =>
      have hf : ¬ (f.tag == StackTag.voluntary) = true := by simp [hg f]
      rw [List.cons_append, List.dropWhile_cons, if_neg hf, ← List.cons_append,
        List.dropWhile_append_of_pos (by simpa using hg)] at he
      exact hb e ((List.dropWhile_sublist _).subset he)

/-- Entries that leave a stack leave it in its runs. -/
theorem Port.StackInRuns.sublist {x y : Port} (hx : x.StackInRuns) (hs : y.stack.Sublist x.stack) :
    y.StackInRuns := by
  rw [Port.stackInRuns_iff] at hx ⊢
  obtain ⟨above, group, below, e, ha, hg, hb⟩ := hx
  rw [e] at hs
  obtain ⟨above', rest', e1, sa, hs⟩ := List.sublist_append_iff.mp hs
  obtain ⟨group', below', e2, sg, sb⟩ := List.sublist_append_iff.mp hs
  exact ⟨above', group', below', by rw [e1, e2], fun e he => ha e (sa.subset he), fun e he => hg e (sg.subset he),
    fun e he => hb e (sb.subset he)⟩

/-- The preempt group loses entries with its stack. -/
theorem Port.group_sublist {x y : Port} (hs : y.stack.Sublist x.stack) : y.group.Sublist x.group :=
  ((hs.filter _).map _).reverse

theorem Port.group_eq_nil_iff (x : Port) : x.group = [] ↔ ∀ e ∈ x.stack, e.tag = .voluntary := by
  have tags : ∀ t : StackTag, t ≠ .preempt ↔ t = .voluntary := fun t => by cases t <;> simp
  simp [Port.group, List.filter_eq_nil_iff, tags]

/-- A port that gains no more than it has room for stays sound. -/
theorem Port.Sound.gains {p : PortId} {n : Nat} {x y : Port} (hx : x.Sound p) (g : x.Gains n y)
    (room : x.holdCount + n ≤ Config.holdMax) : y.Sound p where
  bounded :=
    let ⟨_, stack, filling, notices⟩ := hx.bounded
    ⟨g.hold.trans room, g.stack.length_le.trans stack, g.filling.trans filling, g.notices notices⟩
  group :=
    let ⟨idle, few⟩ := hx.group
    ⟨fun off => List.sublist_nil.mp (idle (Bool.eq_false_iff.mpr fun on => by simp [g.serves on] at off) ▸
        Port.group_sublist g.stack),
      (Port.group_sublist g.stack).length_le.trans few⟩
  runs := hx.runs.sublist g.stack
  others n hn := hx.others n (g.latched hn)

theorem Port.Sound.eased {p : PortId} {x y : Port} (hx : x.Sound p) (g : x.Gains 0 y) : y.Sound p :=
  hx.gains g hx.bounded.1

/-- A sound port whose latch takes another state stays sound, where it serves as before and no notice is its own. -/
theorem Port.Sound.withLatch {p : PortId} {x : Port} (hx : x.Sound p) {l : Latch}
    (serves : l.isServing = x.latch.isServing) (others : ∀ n ∈ l.notices, n.requester ≠ p) :
    Port.Sound p { x with latch := l } where
  bounded := hx.bounded
  group   := ⟨fun off => hx.group.1 (serves ▸ off), hx.group.2⟩
  runs    := hx.runs
  others  := others

/-! ### The shared operations ease every port -/

/-- Every port of the hub stays as it was or loses something, but for notices within their bound. -/
structure Hub.Eases (h g : Hub) : Prop where
  ports : ∀ q, (h.port q).Gains 0 (g.port q)

theorem Hub.PortsBounded.eased {h g : Hub} (hb : h.PortsBounded) (x : h.Eases g) : g.PortsBounded := by
  rw [Hub.portsBounded_iff] at hb ⊢
  exact fun p => (hb p).eased (x.ports p)

theorem Hub.PortsBounded.of_ports {h g : Hub} (hb : h.PortsBounded) (ports : ∀ q, g.port q = h.port q) :
    g.PortsBounded := fun p => by rw [ports]; exact hb p

/-- One port changes, and stays sound if it was. -/
theorem Hub.PortsBounded.updPort {h : Hub} (hb : h.PortsBounded) {p : PortId} {f : Port → Port}
    (sound : (h.port p).Sound p → (f (h.port p)).Sound p) : (h.updPort p f).PortsBounded := by
  rw [Hub.portsBounded_iff] at hb ⊢
  intro q
  rw [Hub.updPort_port]
  split
  · next e => subst e; exact sound (hb _)
  · exact hb q

section Operations
variable (h : Hub)

theorem Hub.Eases.refl : h.Eases h := ⟨fun _ => .refl _⟩

variable {h}

theorem Hub.Eases.trans {g k : Hub} (a : h.Eases g) (b : g.Eases k) : h.Eases k :=
  ⟨fun q => (a.ports q).trans (b.ports q)⟩

theorem Hub.Eases.of_ports {g : Hub} (ports : ∀ q, g.port q = h.port q) : h.Eases g := ⟨fun q => by
  rw [ports]; exact .refl _⟩

theorem Hub.updPort_eases {p : PortId} {f : Port → Port} (hf : (h.port p).Gains 0 (f (h.port p))) :
    h.Eases (h.updPort p f) := ⟨fun q => by
  rw [Hub.updPort_port]
  split
  · next e => subst e; exact hf
  · exact .refl _⟩

theorem Hub.Eases.foldl {α : Type} {f : Hub → α → Hub} (hf : ∀ (g : Hub) a, g.Eases (f g a)) (l : List α) :
    h.Eases (l.foldl f h) := by
  induction l generalizing h with
  | nil => exact .refl _
  | cons a l ih => exact (hf h a).trans ih

theorem appendNotice_length {q : List Notice} (hq : q.length ≤ Config.noticeMax) (n : Notice) :
    (appendNotice q n).length ≤ Config.noticeMax := by
  unfold appendNotice
  split_ifs
  · rw [List.length_append, List.length_singleton]; exact Nat.le_of_lt ‹_›
  · rw [List.length_append, List.length_singleton]; exact Nat.le_of_eq ‹_›
  · exact hq

theorem Port.told_gains (x : Port) (ns : List Notice) : x.Gains 0 (x.told ns) := by
  have bound : ∀ (ns : List Notice) {q : List Notice}, q.length ≤ Config.noticeMax →
      (ns.foldl appendNotice q).length ≤ Config.noticeMax := by
    intro ns
    induction ns with
    | nil => exact id
    | cons n ns ih => exact fun hq => ih (appendNotice_length hq n)
  unfold Port.told
  split
  · exact ⟨le_rfl, .refl _, le_rfl, bound ns, id, fun _ h => h⟩
  · exact .refl _

variable (h)

theorem Hub.putCtx_eases (i : FrameId) (c : Context) : h.Eases (h.putCtx i c) := .of_ports fun _ => rfl

theorem Hub.updClass_eases (k : ClassId) (f : ClassRec → ClassRec) : h.Eases (h.updClass k f) := .of_ports fun _ => rfl

theorem Hub.with_waitList_eases (l : List PortId) : h.Eases { h with waitList := l } := .of_ports fun _ => rfl

theorem Hub.with_isolation_eases (l : List FrameId) : h.Eases { h with isolation := l } := .of_ports fun _ => rfl

theorem Hub.post_eases (p : PortId) (n : Notice) : h.Eases (h.post p n) := ⟨fun q => by
  rw [Hub.post_port]
  split
  · next e => subst e; exact Port.told_gains ..
  · exact .refl _⟩

theorem Hub.postReady_eases (k : ClassId) : h.Eases (h.postReady k) := ⟨fun q => by
  rw [Hub.postReady_port]
  exact Port.told_gains ..⟩

theorem Hub.postIsolated_eases (i : FrameId) (c : Context) (r : IsoReason) : h.Eases (h.postIsolated i c r) := by
  unfold Hub.postIsolated
  dsimp only
  split
  · split
    · exact Hub.post_eases ..
    · exact (Hub.post_eases ..).trans (Hub.post_eases ..)
  · exact Hub.post_eases ..

theorem Hub.leaveOwner_eases (i : FrameId) (c : Context) : h.Eases (h.leaveOwner i c) := by
  unfold Hub.leaveOwner
  split
  · exact Hub.updPort_eases ⟨le_rfl, .refl _, List.length_erase_le, id, id, fun _ h => h⟩
  · exact Hub.updPort_eases (.of_hold (Nat.add_le_add_right List.length_erase_le _) rfl rfl rfl rfl)
  · exact Hub.updPort_eases ⟨le_rfl, List.eraseP_sublist, le_rfl, id, id, fun _ h => h⟩
  · exact .refl _

theorem Hub.isolate_eases (i : FrameId) (c : Context) (r : IsoReason) : h.Eases (h.isolate i c r) := by
  have placed := (h.leaveOwner_eases i c).trans (Hub.putCtx_eases _ i { c with place := .isolated r })
  exact (placed.trans (Hub.with_isolation_eases ..)).trans (Hub.postIsolated_eases ..)

theorem Hub.enqueue_eases (i : FrameId) (c : Context) (cause : Cause) : h.Eases (h.enqueue i c cause) := by
  unfold Hub.enqueue
  dsimp only
  split
  · exact ((Hub.putCtx_eases ..).trans (Hub.updClass_eases ..)).trans (Hub.postReady_eases ..)
  · exact (Hub.putCtx_eases ..).trans (Hub.updClass_eases ..)

variable {h}

theorem Hub.isWaiting_of_claimTakes {c : Context} {passed : Option PortId} {q : PortId}
    (e : h.claimTakes c passed q = true) : (h.port q).claim.isWaiting = true := by
  unfold Hub.claimTakes at e
  split at e
  · next hc => rw [hc]; rfl
  · cases e

/-- A granted frame takes the place its waiting claim reserved (R59, R88). -/
theorem Hub.grant_eases (i : FrameId) (c : Context) {q : PortId} (waits : (h.port q).claim.isWaiting = true) :
    h.Eases (h.grant i c q) := ⟨fun r => by
  obtain ⟨-, ports, -⟩ := h.grant_parts i c q
  rw [ports]
  split
  · next e =>
    subst e
    exact .of_hold (by simp [Port.holdCount, waits, show ∀ x, (ClaimRec.granted x).isWaiting = false from fun _ => rfl])
      rfl rfl rfl rfl
  · exact .refl _⟩

theorem Hub.makeAvailable_eases (h : Hub) (i : FrameId) (c : Context) (cause : Cause) (passed : Option PortId) :
    h.Eases (h.makeAvailable i c cause passed).1 := by
  unfold Hub.makeAvailable
  split
  · next e => exact Hub.grant_eases i _ (Hub.isWaiting_of_claimTakes (Hub.offer_some e).1)
  · exact Hub.enqueue_eases ..

theorem Hub.freeFrame_eases (h : Hub) (i : FrameId) (c : Context) : h.Eases (h.freeFrame i c) :=
  .of_ports (h.freeFrame_rest i c).1

/-- A claim record that does not wait reserves no place (R59). -/
theorem Port.withClaim_gains (x : Port) {r : ClaimRec} (idle : r.isWaiting = false) :
    x.Gains 0 { x with claim := r } :=
  .of_hold (by simp [Port.holdCount, idle]) rfl rfl rfl rfl

theorem Hub.endWait_eases (h : Hub) (p : PortId) {r : ClaimRec} (idle : r.isWaiting = false) :
    h.Eases (h.endWait p r) :=
  (Hub.updPort_eases (Port.withClaim_gains _ idle)).trans (Hub.with_waitList_eases _ (h.waitList.erase p))

theorem Hub.reclaim_eases (h : Hub) (p : PortId) (i : FrameId) : h.Eases (h.reclaim p i) := by
  unfold Hub.reclaim
  split
  · exact .refl _
  · dsimp only
    split
    · exact Hub.makeAvailable_eases ..
    · exact (Hub.makeAvailable_eases ..).trans (Hub.post_eases ..)

/-- A pending notice that goes leaves no notice in the latch. -/
theorem Port.clearPending_gains {x : Port} {n : Urgent} {g : Option Nat} (pending : x.latch = .pending n g) :
    x.Gains 0 { x with latch := .clear } where
  hold    := le_rfl
  stack   := .refl _
  filling := le_rfl
  notices := id
  serves  := by simp [pending, Latch.isServing]
  latched := List.nil_subset _

theorem Hub.lapse_eases {p : PortId} {n : Urgent} {g : Option Nat} (pending : (h.port p).latch = .pending n g) :
    h.Eases (h.lapse p n) :=
  ((Hub.updPort_eases (Port.clearPending_gains pending)).trans (Hub.post_eases ..)).trans (Hub.post_eases ..)

theorem Hub.endSession_eases (h : Hub) (p : PortId) : h.Eases (h.endSession p) := by
  have cancelled : h.Eases (h.cancelPending p) := by
    unfold Hub.cancelPending
    split
    · next n g pending =>
      refine (Hub.post_eases ..).trans (Hub.updPort_eases (Port.clearPending_gains (n := n) (g := g) ?_))
      rw [Hub.post_port]
      split
      · next e => simp [← e, pending]
      · exact pending
    · exact .refl _
  exact cancelled.trans (Hub.updPort_eases ⟨le_rfl, .refl _, le_rfl, fun _ => Nat.zero_le _, id, fun _ h => h⟩)

theorem Hub.restartLease_eases (h : Hub) (p : PortId) : h.Eases (h.restartLease p) :=
  Hub.updPort_eases (by split <;> exact .of_hold le_rfl rfl rfl rfl rfl)

theorem Hub.setClassRecord_eases (h : Hub) (a : ClassSetArgs) : h.Eases (h.setClassRecord a) := by
  have restarted : ∀ (l : List FrameId) (g : Hub), g.Eases (g.restartWaits l) := by
    intro l
    induction l with
    | nil => exact fun g => .refl _
    | cons i l ih =>
      intro g
      unfold Hub.restartWaits
      split
      · split
        · exact (Hub.putCtx_eases ..).trans (ih _)
        · exact ih _
      · exact ih _
  unfold Hub.setClassRecord
  dsimp only
  split
  · exact Hub.updClass_eases ..
  · exact (Hub.updClass_eases ..).trans (restarted _ _)

theorem Hub.promote_eases (h : Hub) (k : ClassId) (b : Prio) : h.Eases (h.promote k b) := by
  unfold Hub.promote
  dsimp only
  split
  · exact .refl _
  · exact .of_ports (Hub.setBand_rest ..).1

theorem Hub.tick_eases (h : Hub) : h.Eases h.tick := ⟨fun q => by
  rw [Hub.tick_port]
  have waits : (h.port q).tick.claim.isWaiting = (h.port q).claim.isWaiting := by
    show (h.port q).claim.tick.isWaiting = _
    cases (h.port q).claim <;> rfl
  refine ⟨by simp only [Port.holdCount, waits]; exact le_rfl, .refl _, le_rfl, id, ?_, ?_⟩
  · show _ → (h.port q).latch.tick.isServing = true
    cases (h.port q).latch <;> exact id
  · show (h.port q).latch.tick.notices ⊆ _
    cases (h.port q).latch <;> exact fun _ h => h⟩

/-! ### The deeds that do more than ease -/

/-- A frame that enters the hold set of a port takes one place there, and no port else gains (R60). -/
theorem Hub.enterHold_gains (h : Hub) (i : FrameId) (c : Context) (p q : PortId) :
    (h.port q).Gains (if q = p then 1 else 0) ((h.enterHold i c p).port q) := by
  simp only [Hub.enterHold, Hub.updPort_port, Hub.putCtx_port]
  split
  · next e =>
    subst e
    exact .of_hold (by simp only [Port.holdCount, List.length_append, List.length_singleton]; omega) rfl rfl rfl rfl
  · exact .refl _

/-- A port with room takes a frame into its hold set, out of a hub that eases the ports (R28, R101). -/
theorem Hub.PortsBounded.enterHold {g : Hub} (hb : h.PortsBounded) (x : h.Eases g) (i : FrameId) (c : Context)
    {p : PortId} (room : (h.port p).holdCount < Config.holdMax) : (g.enterHold i c p).PortsBounded := by
  rw [Hub.portsBounded_iff] at hb ⊢
  intro q
  refine (hb q).gains ((x.ports q).trans (g.enterHold_gains i c p q)) ?_
  split
  · next e => subst e; omega
  · exact (hb q).bounded.1

theorem Hub.PortsBounded.resume (hb : h.PortsBounded) {p : PortId} {e : StackEntry} {rest : List StackEntry}
    (top : (h.port p).stack = e :: rest) (room : (h.port p).holdCount < Config.holdMax) :
    ((h.updPort p (fun x => { x with stack := rest })).resumeFrame p e.frame).PortsBounded := by
  have popped : h.Eases (h.updPort p (fun x => { x with stack := rest })) :=
    Hub.updPort_eases ⟨le_rfl, top ▸ List.sublist_cons_self .., le_rfl, id, id, fun _ h => h⟩
  unfold Hub.resumeFrame
  split
  · exact hb.enterHold popped _ _ room
  · exact hb.eased popped

/-- A waiting claim reserves one place (R59, R86). -/
theorem Hub.PortsBounded.beginWait (hb : h.PortsBounded) {p : PortId} (m : ClassSet) (n : Nat)
    (room : (h.port p).holdCount < Config.holdMax) : (h.beginWait p m n).PortsBounded := by
  refine Hub.PortsBounded.of_ports (h := h.updPort p (fun x => { x with claim := .waiting m n })) ?_ fun _ => rfl
  refine hb.updPort fun sound => sound.gains (n := 1) (.of_hold ?_ rfl rfl rfl rfl) room
  simp only [Port.holdCount, ClaimRec.isWaiting]
  split <;> omega

/-- A frame suspended lies as a VOLUNTARY entry on top of the stack, above its runs (R97, R99). -/
theorem Hub.PortsBounded.pushVoluntary (hb : h.PortsBounded) {p : PortId} (i : FrameId)
    (room : (h.port p).stack.length < Config.stackMax) : (h.pushVoluntary p i).PortsBounded := by
  have left : h.Eases (h.leaveHold p i) :=
    Hub.updPort_eases (.of_hold (Nat.add_le_add_right List.length_erase_le _) rfl rfl rfl rfl)
  have stacked := (hb.eased left).of_ports ((h.leaveHold p i).stackFrame_rest p i).1
  refine stacked.updPort fun ⟨⟨hold, _, filling, notices⟩, group, runs, others⟩ => ?_
  refine ⟨⟨hold, ?_, filling, notices⟩, group, runs, others⟩
  rw [((h.leaveHold p i).stackFrame_rest p i).1]
  simpa [Hub.leaveHold] using room

/-- A notice posted to another port's latch names its requester, and not that port (R109, R110). -/
theorem Hub.PortsBounded.postUrgent (hb : h.PortsBounded) {t : PortId} {n : Urgent} (other : n.requester ≠ t) :
    (h.postUrgent t n).1.PortsBounded := by
  unfold Hub.postUrgent
  split
  · next clear =>
    exact hb.updPort fun sound => sound.withLatch (by rw [clear]; rfl) (by simpa [Latch.notices] using other)
  · exact hb
  · next v serving =>
    refine hb.updPort fun sound => sound.withLatch (by rw [serving]; rfl) ?_
    have served : v.requester ≠ t := sound.others v (by simp [serving, Latch.notices])
    simpa [Latch.notices] using ⟨served, other⟩
  · exact hb

/-- A save puts the hold set on a stack without PREEMPT entries, and the notice is served (R116, R117). -/
theorem Hub.PortsBounded.beginService (hb : h.PortsBounded) {p : PortId} {n : Urgent} {g : Option Nat}
    (latch : (h.port p).latch = .pending n g)
    (room : (h.port p).stack.length + (h.port p).hold.length ≤ Config.stackMax) :
    (h.beginService p n).PortsBounded := by
  refine Hub.PortsBounded.eased ?_ (Hub.post_eases ..)
  rw [Hub.portsBounded_iff] at hb ⊢
  intro q
  rw [Hub.setLatch_port]
  split
  · next e =>
    subst e
    rw [Hub.saveHold_port, if_pos rfl]
    obtain ⟨⟨hold, -, filling, notices⟩, group, -, others⟩ := hb q
    have voluntary := (Port.group_eq_nil_iff _).mp (group.1 (by rw [latch]; rfl))
    have saved : ∀ e ∈ savedEntries (h.port q).hold, e.tag = .preempt := by
      simp [savedEntries]
    refine ⟨⟨?_, ?_, filling, notices⟩, ⟨(fun off => by cases off), ?_⟩, ?_, ?_⟩
    · exact le_trans (Nat.add_le_add_right (Nat.zero_le _) _) hold
    · simp only [savedEntries, List.length_append, List.length_reverse, List.length_map]; omega
    · have none : (h.port q).stack.filter (fun e => e.tag == .preempt) = [] := by
        rw [List.filter_eq_nil_iff]; simp +contextual [voluntary]
      have held : (h.port q).hold.length ≤ Config.holdMax := le_trans (Nat.le_add_right ..) hold
      have := List.length_filter_le (fun e => e.tag == StackTag.preempt) (savedEntries (h.port q).hold)
      simp only [Port.group, List.filter_append, none, List.append_nil, List.length_reverse, List.length_map]
      simp only [savedEntries, List.length_reverse, List.length_map] at this ⊢
      omega
    · exact (Port.stackInRuns_iff _).mpr ⟨[], _, _, rfl, by simp, saved, voluntary⟩
    · simpa [Latch.notices] using others n (by simp [latch, Latch.notices])
  · next e => rw [Hub.saveHold_port, if_neg e]; exact hb q

/-! ### The fence (R139 to R144) -/

/-- A port that gives up its hold set, its stack and its latch is sound. -/
theorem Port.Sound.emptied {p : PortId} {x y : Port} (hx : x.Sound p) (claim : y.claim = x.claim)
    (hold : y.hold = []) (stack : y.stack = []) (latch : y.latch = .clear) (filling : y.filling = x.filling)
    (notices : y.notices = x.notices) : y.Sound p where
  bounded := by
    obtain ⟨hc, -, hf, hn⟩ := hx.bounded
    refine ⟨?_, by simp [stack], by rw [filling]; exact hf, by rw [notices]; exact hn⟩
    simp only [Port.holdCount, hold, claim] at hc ⊢
    exact le_trans (Nat.add_le_add_right (Nat.zero_le _) _) hc
  group   := by simp [Port.GroupLegal, Port.group, stack]
  runs    := by simp [Port.StackInRuns, stack]
  others  := by simp [latch, Latch.notices]

/-- The fourth and fifth steps of a fence: its latch and its lists empty together, and every frame reclaimed goes to
another port (R142, R143). -/
theorem Hub.PortsBounded.fenceReclaim (hb : h.PortsBounded) (p : PortId) :
    ((h.fenceLatch p).fenceReclaim p).PortsBounded := by
  have cancelled : ∀ l : List Urgent,
      (l.foldl (fun g n => g.post n.requester (.preemptCancelled p n.cls)) h).PortsBounded := fun l =>
    hb.eased (Hub.Eases.foldl (fun _ _ => Hub.post_eases ..) l)
  have emptied : ∀ {g : Hub}, g.PortsBounded → ((g.updPort p (fun x => { x with latch := .clear })).updPort p
      (fun x => { x with hold := [], stack := [] })).PortsBounded := by
    intro g hg
    rw [Hub.portsBounded_iff] at hg ⊢
    intro q
    simp only [Hub.updPort_port, if_true]
    split
    · next e => subst e; exact (hg _).emptied rfl rfl rfl rfl rfl rfl
    · exact hg q
  exact (emptied (cancelled _)).eased (Hub.Eases.foldl (fun g i => g.reclaim_eases p i) _)

theorem Hub.PortsBounded.fence (hb : h.PortsBounded) (p : PortId) (why : FenceReason) :
    (h.fence p why).PortsBounded := by
  have fenced : (h.updPort p (fun x => { x with state := .fenced })).PortsBounded :=
    hb.eased (Hub.updPort_eases (.of_hold le_rfl rfl rfl rfl rfl))
  have unfilled : ∀ {g : Hub}, g.PortsBounded → (g.updPort p (fun x => { x with filling := [] })).PortsBounded :=
    fun hg => hg.eased (Hub.updPort_eases ⟨le_rfl, .refl _, Nat.zero_le _, id, id, fun _ h => h⟩)
  have reported : ∀ {g : Hub} (n : Notice), g.PortsBounded →
      (g.updPort p (fun x => { x with notices := [n] })).PortsBounded :=
    fun n hg => hg.eased (Hub.updPort_eases ⟨le_rfl, .refl _, le_rfl, fun _ => by simp, id, fun _ h => h⟩)
  have freed := fenced.of_ports (Hub.freeAll_rest _ (h.port p).filling).1
  unfold Hub.fence
  dsimp only
  exact reported _ (((unfilled freed).eased (Hub.endWait_eases _ p rfl)).fenceReclaim p)

/-! ### END_PREEMPT (R121, R122) -/

/-- A frame made available keeps its control record, and no other frame changes. -/
theorem Hub.makeAvailable_ctx (h : Hub) (i : FrameId) (c : Context) (cause : Cause) (passed : Option PortId) :
    ∃ d : Context, d.control = c.control ∧
      ∀ j, (h.makeAvailable i c cause passed).1.ctx j = if j = i then some d else h.ctx j := by
  unfold Hub.makeAvailable
  split
  · next q _ =>
    refine ⟨{ c with cause := some cause, place := .held q false }, rfl, fun j => ?_⟩
    exact (Hub.with_waitList_ctx ..).trans (h.enterHold_ctx q i { c with cause := some cause } j)
  · refine ⟨{ c with cause := some cause, place := .queued c.control.base 0 }, rfl, fun j => ?_⟩
    simp only [Hub.enqueue]
    split <;> simp

/-- A hub in which one frame changed and kept its affinity restores the same frames. -/
theorem Hub.restorable_congr {g : Hub} {i : FrameId} {c d : Context} (used : h.ctx i = some c)
    (ctx : ∀ j, g.ctx j = if j = i then some d else h.ctx j) (control : d.control = c.control) (p : PortId)
    (j : FrameId) : g.restorable p j = h.restorable p j := by
  simp only [Hub.restorable, ctx]
  split_ifs with e
  · subst e; simp only [used, Context.allows, control]
  · rfl

/-- Dealing with one frame of the group changes no affinity. -/
theorem EndTally.deal_restorable (t : EndTally) (p : PortId) (i j : FrameId) :
    (t.deal p i).hub.restorable p j = t.hub.restorable p j := by
  unfold EndTally.deal
  split
  · rfl
  · next c used =>
    split
    · exact Hub.restorable_congr used (t.hub.enterHold_ctx p i c) rfl p j
    · obtain ⟨d, control, ctx⟩ := t.hub.makeAvailable_ctx i c .returned none
      exact Hub.restorable_congr used ctx control p j

/-- A frame of the group takes a place in the hold set of its port where its affinity allows (R121). -/
theorem EndTally.deal_gains (t : EndTally) (p : PortId) (i : FrameId) (q : PortId) :
    (t.hub.port q).Gains (if q = p ∧ t.hub.restorable p i = true then 1 else 0) ((t.deal p i).hub.port q) := by
  cases used : t.hub.ctx i with
  | none => simpa [EndTally.deal, Hub.restorable, used] using Port.Gains.refl _
  | some c =>
    by_cases allowed : c.allows p = true
    · simpa [EndTally.deal, Hub.restorable, used, allowed] using Hub.enterHold_gains t.hub i c p q
    · simpa [EndTally.deal, Hub.restorable, used, allowed] using
        (Hub.makeAvailable_eases t.hub i c .returned none).ports q

/-- The group takes as many places as it has frames that the port may have back. -/
theorem EndTally.foldl_deal_gains (t : EndTally) (p : PortId) (l : List FrameId) (q : PortId) :
    (t.hub.port q).Gains (if q = p then l.countP (t.hub.restorable p) else 0)
      ((l.foldl (fun t i => t.deal p i) t).hub.port q) := by
  induction l generalizing t with
  | nil => simpa using Port.Gains.refl _
  | cons i l ih =>
    have g := (t.deal_gains p i q).trans (ih (t.deal p i))
    rw [funext (t.deal_restorable p i)] at g
    rw [List.foldl_cons]
    convert g using 1
    by_cases e : q = p
    · simp only [e, if_true, true_and, List.countP_cons]; omega
    · simp [e]

/-- The frames restored fit in the hold set: beside a waiting claim they are not all the frames of a full group
(R120). -/
theorem Port.group_room {x : Port} {restorable : FrameId → Bool} (few : x.group.length ≤ Config.holdMax)
    (held : x.hold = [])
    (room : (x.claim.isWaiting && decide (Config.holdMax ≤ x.group.length) && x.group.all restorable) = false) :
    x.holdCount + x.group.countP restorable ≤ Config.holdMax := by
  have count := List.countP_le_length (p := restorable) (l := x.group)
  simp only [Port.holdCount, held, List.length_nil, Nat.zero_add]
  split
  · next waits =>
    simp only [waits, Bool.true_and, Bool.and_eq_false_iff, decide_eq_false_iff_not] at room
    rcases room with room | room
    · omega
    · have : x.group.countP restorable ≠ x.group.length := fun e => by
        rw [List.countP_eq_length] at e
        rw [List.all_eq_true.mpr e] at room
        cases room
      omega
  · omega

/-- A port whose stack has no PREEMPT entry may have any latch whose notices are others' (R97). -/
theorem Port.Sound.withoutGroup {p : PortId} {x : Port} (hx : x.Sound p) (none : x.group = []) {l : Latch}
    (others : ∀ n ∈ l.notices, n.requester ≠ p) : Port.Sound p { x with latch := l } where
  bounded := hx.bounded
  group   := ⟨fun _ => none, hx.group.2⟩
  runs    := hx.runs
  others  := others

theorem Port.latchAfter_notices (x : Port) : x.latchAfter.notices ⊆ x.latch.notices := by
  unfold Port.latchAfter
  split
  · next e => rw [e]; simp [Latch.notices]
  · exact List.nil_subset _

/-- An END_PREEMPT before its first frame: the group has left the stack, and nothing is restored or diverted (R121). -/
def Hub.liftGroup (h : Hub) (p : PortId) : EndTally :=
  { hub := h.updPort p (fun x => { x with stack := x.stack.filter (fun e => e.tag != .preempt) }),
    restored := [], diverted := [] }

theorem Hub.endService_hub (h : Hub) (p : PortId) (v : Urgent) : (h.endService p v).hub =
    ((((h.port p).group.foldl (fun t i => EndTally.deal t p i) (h.liftGroup p)).hub.post v.requester
      (.preemptDone p v.cls)).setLatch p (h.port p).latchAfter) := rfl

theorem Hub.liftGroup_eases (h : Hub) (p : PortId) : h.Eases (h.liftGroup p).hub :=
  Hub.updPort_eases (f := fun x => { x with stack := x.stack.filter (fun e => e.tag != .preempt) }) ⟨
    le_rfl, List.filter_sublist, le_rfl, id, id, fun _ h => h⟩

theorem Hub.liftGroup_voluntary (h : Hub) (p : PortId) :
    ∀ e ∈ ((h.liftGroup p).hub.port p).stack, e.tag = .voluntary := by
  have tags : ∀ t : StackTag, t ≠ .preempt → t = .voluntary := fun t => by cases t <;> simp
  intro e he
  simp only [Hub.liftGroup, Hub.updPort_port, if_true, List.mem_filter, bne_iff_ne] at he
  exact tags _ he.2

theorem Hub.PortsBounded.endService (hb : h.PortsBounded) {p : PortId} (v : Urgent) (held : (h.port p).hold = [])
    (room : ((h.port p).claim.isWaiting && decide (Config.holdMax ≤ (h.port p).group.length) &&
      (h.port p).group.all (h.restorable p)) = false) : (h.endService p v).hub.PortsBounded := by
  have sound := (Hub.portsBounded_iff h).mp hb
  have dealt := EndTally.foldl_deal_gains (h.liftGroup p) p (h.port p).group
  have told := Hub.post_eases ((h.port p).group.foldl (fun t i => EndTally.deal t p i) (h.liftGroup p)).hub v.requester
    (.preemptDone p v.cls)
  have bounded : ((h.port p).group.foldl (fun t i => EndTally.deal t p i) (h.liftGroup p)).hub.PortsBounded := by
    rw [Hub.portsBounded_iff]
    intro q
    refine (sound q).gains (((h.liftGroup_eases p).ports q).trans (dealt q)) ?_
    split
    · next e =>
      subst e
      rw [Nat.zero_add]
      exact Port.group_room (sound q).group.2 held room
    · exact (sound q).bounded.1
  rw [Hub.endService_hub]
  refine (bounded.eased told).updPort fun last => ?_
  refine last.withoutGroup ((Port.group_eq_nil_iff _).mpr fun e he => ?_)
    fun n hn => (sound p).others n (Port.latchAfter_notices _ hn)
  exact h.liftGroup_voluntary p e (((dealt p).trans (told.ports p)).stack.subset he)

/-! ### Every step -/

theorem Hub.Deed.portsBounded {g : Hub} (d : h.Deed g) (hb : h.PortsBounded) : g.PortsBounded := by
  cases d with
  | join off lease grace => exact hb.eased (Hub.updPort_eases (.of_hold le_rfl rfl rfl rfl rfl))
  | leave on may => exact hb.eased (Hub.endSession_eases ..)
  | subscribe on => exact hb.eased (Hub.updPort_eases (.of_hold le_rfl rfl rfl rfl rfl))
  | restartLease => exact hb.eased (Hub.restartLease_eases ..)
  | goOffline off =>
    exact hb.eased (Hub.updPort_eases ⟨le_rfl, .refl _, le_rfl, fun _ => Nat.zero_le _, id, fun _ h => h⟩)
  | isolate on used owned => exact hb.eased (Hub.isolate_eases ..)
  | release on used owned => exact hb.eased ((Hub.leaveOwner_eases ..).trans (Hub.makeAvailable_eases ..))
  | free on used owned => exact hb.eased ((Hub.leaveOwner_eases ..).trans (Hub.freeFrame_eases ..))
  | discard used isolated => exact hb.eased ((Hub.with_isolation_eases ..).trans (Hub.freeFrame_eases ..))
  | edit on used owned amends => exact hb
  | stayIsolated used isolated amends => exact hb
  | repair used isolated amends => exact hb.eased ((Hub.with_isolation_eases ..).trans (Hub.makeAvailable_eases ..))
  | claim on room queued used allowed => exact hb.enterHold (Hub.updClass_eases ..) _ _ room
  | wait on mask time room idle empty => exact hb.beginWait _ _ room
  | endWait ended on => exact hb.eased (Hub.endWait_eases _ _ (by rcases ended with rfl | rfl <;> rfl))
  | readClaim result => exact hb.eased (Hub.updPort_eases (Port.withClaim_gains _ rfl))
  | suspend on used held room => exact hb.pushVoluntary _ room
  | resume on top tag room => exact hb.resume top room
  | preempt other on => exact hb.postUrgent (Ne.symm other)
  | takePreempt on latch room => exact hb.beginService latch room
  | endPreempt on latch held flat room => exact hb.endService _ held room
  | readNotices =>
    exact hb.eased
      (Hub.updPort_eases ⟨le_rfl, .refl _, le_rfl, (List.drop_sublist ..).length_le.trans, id, fun _ h => h⟩)
  | setClass positive bounded aging closed fits => exact hb.eased (Hub.setClassRecord_eases ..)
  | fence on => exact hb.fence _ _
  | lapse latch => exact hb.eased (Hub.lapse_eases latch)
  | promote => exact hb.eased (Hub.promote_eases ..)
  | tick => exact hb.eased (Hub.tick_eases _)

/-- A park that opens takes a free place of the filling list (R39, R42). -/
theorem Hub.Opens.portsBounded {g : Hub} (o : h.Opens g) (hb : h.PortsBounded) : g.PortsBounded := by
  cases o with
  | @park p i c len check on enabled legal positive short filling room lowest space =>
    rw [Hub.portsBounded_iff] at hb ⊢
    intro q
    rw [Hub.openPark_port]
    split
    · next e =>
      subst e
      obtain ⟨⟨hold, stack, -, notices⟩, group, runs, others⟩ := hb q
      exact ⟨⟨hold, stack, by simpa using filling, notices⟩, group, runs, others⟩
    · exact hb q

theorem Hub.Writes.portsBounded {g : Hub} (w : h.Writes g) (hb : h.PortsBounded) : g.PortsBounded := by
  have stored : ∀ c off ws, (h.storeWords c off ws).PortsBounded := fun c off ws =>
    let ⟨_, _, ports, _, _⟩ := h.storeWords_rest c off ws
    hb.of_ports ports
  cases w with
  | fill on used filling fits => exact stored _ _ _
  | modify on used held => exact stored _ _ _
  | rewrite used isolated => exact stored _ _ _
  | strike => exact hb

theorem Hub.reset_portsBounded : Hub.reset.PortsBounded := by
  rw [Hub.portsBounded_iff]
  intro p
  rw [Hub.reset_port]
  exact ⟨⟨by decide, by decide, by decide, by decide⟩, ⟨fun _ => rfl, by decide⟩, rfl,
    fun _ hn => absurd hn List.not_mem_nil⟩

end Operations

end Sys2Proof.Machine

/-- Settles O58: a deed eases every port, or puts something on a stack, in a hold set or in a latch that has room for
it. -/
theorem stepsKeepPortsWithinBounds : Obligations.StepsKeepPortsWithinBounds :=
  fun _ _ hb e => step_keeps (Law := Hub.PortsBounded) Hub.reset_portsBounded (fun hb d => d.portsBounded hb)
    (fun hb o => o.portsBounded hb) (fun hb w => w.portsBounded hb) hb e
end

section
/-!
A request that names a frame by its handle, taken from an ONLINE port; and the requests that end the filling or the
holding of a frame: PARK_CLOSE and REPARK (R48 to R51, R77, R78), PARK_ABORT, RETIRE and DISCARD (R18, R53, R79, R169).
-/
open Sys2Proof Sys2Proof.Machine
namespace Sys2Proof.Machine

/-! ### Requests of an ONLINE port (R128) -/

theorem Hub.session_online {h : Hub} {p : PortId} (on : h.online p = true) (k : ReqKind) (body : Hub × Reply) :
    h.session k p body = body := by
  unfold Hub.online at on
  unfold Hub.session
  cases hx : (h.port p).state with
  | online n => rfl
  | offline => rw [hx] at on; cases on
  | fenced => rw [hx] at on; cases on

/-- A request of an ONLINE port whose handle word names a frame it may take is answered as its form check and its body
say. -/
theorem bodyOf_handled {i : Instr} {s : State} {p : PortId} {k : ReqKind} {α : Type} {accepts : Place → Bool}
    {j : FrameId} {c : Context} {u : BitVec 16} {rest : List Word} {args : Word → List Word → Option α}
    {body : FrameId → Context → α → Hub × Reply} (on : s.hub.online p = true) (used : s.hub.ctx j = some c)
    (takes : accepts c.place = true)
    (hb : bodyOf s.hub i = s.hub.session k p (s.hub.handled accepts (s.hub.handleWord j u :: rest) args body)) :
    bodyOf s.hub i = s.hub.form (args (s.hub.handleWord j u) rest) (body j c) := by
  rw [hb, Hub.session_online on]
  simp only [Hub.handled, Hub.find_handleWord u used takes]

/-! ### The unused bits of a handle word (R178, R180) -/

/-- Unused bits in the upper half of a word are clear where they are clear in that half. -/
theorem clearIn_append (u x m : BitVec 16) : clearIn (u ++ x) (m ++ 0#16) = (u &&& m == 0#16) := by
  rw [clearIn, BitVec.and_append, BitVec.and_zero, Bool.eq_iff_iff, beq_iff_eq, beq_iff_eq,
    show (0#32 : Word) = 0#16 ++ 0#16 from rfl, BitVec.append_left_inj]

/-- A handle word with nothing above the handle has the form of a request that carries a handle alone. -/
theorem readHandleOnly_handleWord (h : Hub) (i : FrameId) : readHandleOnly (h.handleWord i 0) [] = some () := by
  have clear : clearIn (h.handleWord i 0) (0xFFFF#16 ++ 0#16) = true := clearIn_append ..
  simp only [readHandleOnly, show (0xFFFF0000#32 : Word) = 0xFFFF#16 ++ 0#16 from rfl, clear]
  rfl

/-- The new image check of REPARK is the upper half of its handle word. -/
theorem readRepark_handleWord (h : Hub) (i : FrameId) (check : BitVec 16) :
    readRepark (h.handleWord i check) [] = some check :=
  congrArg some (upper_append check (h.handle i))

/-! ### Places a request accepts (R6) -/

theorem Place.filling_isFillingOf {p : PortId} {x : Place} {n : Nat} (e : x = .filling p n) :
    x.isFillingOf p = true := by simp [e, Place.isFillingOf]

theorem Place.held_isHeldOf {p : PortId} {x : Place} {m : Bool} (e : x = .held p m) : x.isHeldOf p = true := by
  simp [e, Place.isHeldOf]

theorem Place.isolated_isIsolated {x : Place} {r : IsoReason} (e : x = .isolated r) : x.isIsolated = true := by
  rw [e]; rfl

/-! ### PARK_CLOSE and REPARK (R48 to R51, R77, R78) -/

section Checked
variable {s : State} {p : PortId} {tag : Tag} {j : FrameId} {c : Context} (on : s.hub.online p = true)
  (used : s.hub.ctx j = some c)
include on used

/-- A PARK_CLOSE of a frame its port fills goes by the fill pointer, and then by the image check. -/
theorem bodyOf_parkClose {n : Nat} (place : c.place = .filling p n) :
    bodyOf s.hub (.parkClose p tag [s.hub.handleWord j 0]) = s.hub.parkCloseWith j c := by
  have hb := bodyOf_handled (i := .parkClose p tag [s.hub.handleWord j 0]) on used
    (Place.filling_isFillingOf place) rfl
  rwa [readHandleOnly_handleWord] at hb

/-- A REPARK of a frame its port holds goes by the image check under its new check value. -/
theorem bodyOf_repark {m : Bool} (place : c.place = .held p m) (check : BitVec 16) :
    bodyOf s.hub (.repark p tag [s.hub.handleWord j check]) = s.hub.reparkWith j c check := by
  have hb := bodyOf_handled (i := .repark p tag [s.hub.handleWord j check]) on used (Place.held_isHeldOf place) rfl
  rwa [readRepark_handleWord] at hb

end Checked

/-- Below the image length a PARK_CLOSE answers the fill pointer (R48). -/
theorem Hub.parkCloseWith_incomplete {h : Hub} {j : FrameId} {c : Context} {p : PortId} {n : Nat}
    (place : c.place = .filling p n) (short : n < c.len) :
    h.parkCloseWith j c = (h, { result := .incomplete, payload := [valueWord n] }) := by
  simp [Hub.parkCloseWith, place, Place.fill, short]

/-- A PARK_CLOSE of a full image settles the frame by its image check (R49, R50). -/
theorem Hub.parkCloseWith_full {h : Hub} {j : FrameId} {c : Context} {p : PortId} (place : c.place = .filling p c.len) :
    h.parkCloseWith j c = ((h.settleChecked j c .parked).1,
      .okWith [outcomeWord (h.handle j) (h.settleChecked j c .parked).2]) := by
  simp [Hub.parkCloseWith, place, Place.fill]

theorem Hub.settleChecked_failed {h : Hub} {c : Context} {r : IsoReason} (finds : h.checkImage c = some r)
    (j : FrameId) (cause : Cause) : h.settleChecked j c cause = (h.isolate j c r, .isolated r) := by
  simp only [Hub.settleChecked, finds]

theorem Hub.settleChecked_matched {h : Hub} {c : Context} (finds : h.checkImage c = none) (j : FrameId)
    (cause : Cause) : h.settleChecked j c cause = (h.leaveOwner j c).makeAvailable j c cause none := by
  simp only [Hub.settleChecked, finds]

/-- A frame condition also holds with the Isolation List given up. -/
theorem Hub.SameBeyond.withIsolation {h g : Hub} {x : Reach} (same : h.SameBeyond g x) :
    h.SameBeyond g { x with isolation := True } :=
  { same with isolation := fun hn => absurd trivial hn }

/-- A request that settles its frame after a matching check makes it available (R50, R78). -/
theorem makesAvailable_of_settled {i : Instr} {s : State} {p : PortId} {r : Request} {j : FrameId} {d : Context}
    {cause : Cause} (banded : s.hub.QueuesBanded) (hr : requestOf i = some (p, r)) (admitted : Admitted i s)
    (finds : s.hub.checkImage d = none)
    (hb : bodyOf s.hub i = ((s.hub.settleChecked j d cause).1,
      .okWith [outcomeWord (s.hub.handle j) (s.hub.settleChecked j d cause).2])) :
    MakesAvailable i s j d cause s.hub.isolation := by
  rw [Hub.settleChecked_matched finds] at hb
  obtain ⟨outcome, isolation, same⟩ := s.hub.makeAvailable_leaveOwner j d cause none banded
  have rest := And.intro isolation same.withIsolation
  rcases outcome with ⟨q, granted, grants⟩ | ⟨queued, inserts⟩
  · exact .inl ⟨q, takes_body hr admitted (by rw [hb, granted]) (by rw [hb]; exact ⟨grants, rest⟩)⟩
  · exact .inr (takes_body hr admitted (by rw [hb, queued]) (by rw [hb]; exact ⟨inserts, rest⟩))

/-! ### PARK_ABORT, RETIRE, DISCARD (R18, R53, R79, R169) -/

/-- The generation that follows, as R5 words it. -/
theorem nextGen_eq (g : BitVec 10) : nextGen g = if g = 1023 then 1 else g + 1 := rfl

/-- A frame that has left its list, and nothing but that list differs, is freed as R18 says and nothing else
changes. -/
theorem Hub.freeFrame_frees {h g : Hub} {i : FrameId} {c : Context} (frames : ∀ j, g.frame j = h.frame j)
    (blocks : ∀ b, g.block b = h.block b) (classes : ∀ k, g.cls k = h.cls k) (memory : g.memory = h.memory)
    (waitList : g.waitList = h.waitList) (x : Prop) (isolation : ¬ x → g.isolation = h.isolation) :
    h.Frees (g.freeFrame i c) i c ∧ h.SameBeyond (g.freeFrame i c)
      { frames := (· = i), ports := fun _ => True, classes := (· = c.control.cls), blocks := (· ∈ c.blocks),
        isolation := x } := by
  obtain ⟨-, memory', waitList', isolation'⟩ := g.freeFrame_rest i c
  constructor
  · exact ⟨by rw [Hub.freeFrame_frame, if_pos rfl, nextGen_eq, frames],
      fun b hb => by rw [Hub.freeFrame_block, if_pos hb, blocks],
      by rw [Hub.freeFrame_cls, if_pos rfl, classes]⟩
  · exact ⟨fun j hj => by rw [Hub.freeFrame_frame, if_neg hj, frames], fun _ hq => absurd trivial hq,
      fun k hk => by rw [Hub.freeFrame_cls, if_neg hk, classes],
      fun b hb => by rw [Hub.freeFrame_block, if_neg hb, blocks],
      fun a _ => by rw [memory', memory], fun _ => by rw [waitList', waitList],
      fun hx => by rw [isolation', isolation hx]⟩

/-- An owned frame leaves its owner and is freed (R18, R53, R79). -/
theorem Hub.freeOwned_frees (h : Hub) (i : FrameId) (c : Context) :
    h.Frees ((h.leaveOwner i c).freeFrame i c) i c ∧
      (∀ q, ((h.leaveOwner i c).freeFrame i c).port q = h.portWithout i c q) ∧
      h.SameBeyond ((h.leaveOwner i c).freeFrame i c)
        { frames := (· = i), ports := fun _ => True, classes := (· = c.control.cls), blocks := (· ∈ c.blocks),
          isolation := False } := by
  obtain ⟨frames, blocks, classes, -, -, -, memory, waitList, isolation⟩ := h.leaveOwner_rest i c
  obtain ⟨frees, same⟩ := Hub.freeFrame_frees (i := i) (c := c) frames blocks classes memory waitList False
    fun _ => isolation
  obtain ⟨ports, -⟩ := (h.leaveOwner i c).freeFrame_rest i c
  exact ⟨frees, fun q => by rw [ports, Hub.leaveOwner_port], same⟩

/-- An isolated frame leaves the Isolation List and is freed (R18, R169). -/
theorem Hub.freeIsolated_frees (h : Hub) {i : FrameId} {c : Context} {r : IsoReason} (place : c.place = .isolated r) :
    (h.Frees ((h.leaveIsolation i).freeFrame i c) i c ∧
      (∀ q, ((h.leaveIsolation i).freeFrame i c).port q = h.portWithout i c q) ∧
      h.SameBeyond ((h.leaveIsolation i).freeFrame i c)
        { frames := (· = i), ports := fun _ => True, classes := (· = c.control.cls), blocks := (· ∈ c.blocks),
          isolation := True }) ∧
      ((h.leaveIsolation i).freeFrame i c).isolation = h.isolation.erase i := by
  obtain ⟨frees, same⟩ := Hub.freeFrame_frees (h := h) (g := h.leaveIsolation i) (i := i) (c := c) (fun _ => rfl)
    (fun _ => rfl) (fun _ => rfl) rfl rfl True fun hn => absurd trivial hn
  obtain ⟨ports, -, -, isolation⟩ := (h.leaveIsolation i).freeFrame_rest i c
  refine ⟨⟨frees, fun q => ?_, same⟩, isolation⟩
  rw [ports, Hub.portWithout, place]
  rfl

end Sys2Proof.Machine

/-- Settles O15: the check is the first thing that PARK_CLOSE of a full image and REPARK do, and a failed one is
`Hub.isolate`. -/
theorem failedCheckIsolatesTheFrame : Obligations.FailedCheckIsolatesTheFrame := by
  intro s p tag j c check r on used
  simp only [Hub.checkFinds_iff]
  refine ⟨fun n admitted place short => ?_, fun admitted place finds => ?_, fun m admitted place finds => ?_⟩
  · have hb := (bodyOf_parkClose (tag := tag) on used place).trans (Hub.parkCloseWith_incomplete place short)
    exact takes_body rfl admitted (by rw [hb]) (by rw [hb])
  · have hb := (bodyOf_parkClose (tag := tag) on used place).trans (Hub.parkCloseWith_full place)
    rw [Hub.settleChecked_failed finds] at hb
    exact takes_body rfl admitted (by rw [hb]) (by rw [hb]; exact s.hub.isolate_isolates ..)
  · have hb := bodyOf_repark (tag := tag) on used place check
    rw [Hub.reparkWith, Hub.settleChecked_failed finds] at hb
    exact takes_body rfl admitted (by rw [hb]) (by rw [hb]; exact s.hub.isolate_isolates ..)

/-- Settles O16: after a matching check the frame leaves its owner and is made available, no claim passed over. -/
theorem matchingCheckMakesTheFrameAvailable : Obligations.MatchingCheckMakesTheFrameAvailable := by
  intro s p tag j c check banded on used
  simp only [Hub.checkFinds_iff]
  exact ⟨fun admitted place finds => makesAvailable_of_settled banded rfl admitted finds
      ((bodyOf_parkClose on used place).trans (Hub.parkCloseWith_full place)),
    fun m admitted place finds => makesAvailable_of_settled banded rfl admitted finds
      (bodyOf_repark on used place check)⟩

/-- Settles O17: each of the three takes its frame from its list and frees it. -/
theorem freeingRequestsReturnTheFrameToFree : Obligations.FreeingRequestsReturnTheFrameToFree := by
  intro s p tag j c on used
  refine ⟨fun n admitted place => ?_, fun m admitted place => ?_, fun r admitted place => ?_⟩
  · have takes := Place.filling_isFillingOf place
    have hb := bodyOf_handled (i := .parkAbort p tag [s.hub.handleWord j 0]) on used takes rfl
    rw [readHandleOnly_handleWord] at hb
    refine takes_body rfl admitted (by rw [hb]; rfl) ?_
    rw [hb, Hub.form, Hub.leaveFilling_eq_leaveOwner takes]
    exact s.hub.freeOwned_frees j c
  · have takes := Place.held_isHeldOf place
    have hb := bodyOf_handled (i := .retire p tag [s.hub.handleWord j 0]) on used takes rfl
    rw [readHandleOnly_handleWord] at hb
    refine takes_body rfl admitted (by rw [hb]; rfl) ?_
    rw [hb, Hub.form, Hub.leaveHold_eq_leaveOwner takes]
    exact s.hub.freeOwned_frees j c
  · have hb := bodyOf_handled (i := .discard p tag [s.hub.handleWord j 0]) on used (Place.isolated_isIsolated place) rfl
    rw [readHandleOnly_handleWord] at hb
    refine takes_body rfl admitted (by rw [hb]; rfl) ?_
    rw [hb]
    exact s.hub.freeIsolated_frees place
end

section
/-!
The writes of an image: where PARK_WRITE, WRITE_IMAGE and ISOLATION_WRITE store their words (R16), and what they do to
the damage of the blocks they write (R19, R46, R71, R165).
-/
open Sys2Proof Sys2Proof.Machine
namespace Sys2Proof.Machine

/-! ### The marks of a block (R19) -/

/-- The write of one word position, in the words of the statements. -/
theorem Block.rewrite_eq_after (x : Block) (used : BitVec 8) {pos : Nat} (hp : pos < 8) :
    x.rewrite used pos = x.after used (1#8 <<< pos) := by
  have one : 1#8 <<< pos ≠ 0#8 := fun e => by
    have := congrArg (BitVec.getLsbD · pos) e
    simp [hp] at this
  unfold Block.rewrite Block.after
  by_cases damaged : x.damaged = true
  · simp only [damaged, if_true, one, Bool.true_eq_false, or_self, if_false]
  · simp only [damaged, if_false, or_true, if_true, Bool.false_eq_true]

/-- A record that holds every position in use goes on holding them as it grows. -/
theorem or_and_eq_of_and_eq {r n u : BitVec 8} (full : r &&& u = u) : (r ||| n) &&& u = u := by
  ext k hk
  have at_k : (r[k] && u[k]) = u[k] := by rw [← BitVec.getElem_and, full]
  rw [Bool.and_eq_right_iff_imp] at at_k
  simp only [BitVec.getElem_and, BitVec.getElem_or, Bool.and_eq_right_iff_imp]
  exact fun hu => by rw [at_k hu, Bool.true_or]

/-- Two writes of a block one after the other mark it as one write of both their positions. -/
theorem Block.after_after (x : Block) (used m n : BitVec 8) :
    (x.after used m).after used n = x.after used (m ||| n) := by
  by_cases sound : x.damaged = false
  · simp [Block.after, sound]
  by_cases hm : m = 0#8
  · simp [Block.after, hm]
  have hmn : ¬ m ||| n = 0#8 := fun e => hm (BitVec.or_eq_zero_iff.mp e).1
  by_cases full : (x.rewritten ||| m) &&& used = used
  · have full' : (x.rewritten ||| (m ||| n)) &&& used = used := by
      rw [← BitVec.or_assoc]; exact or_and_eq_of_and_eq full
    simp [Block.after, sound, hm, hmn, full, full']
  · by_cases hn : n = 0#8
    · simp [Block.after, hn]
    · simp [Block.after, sound, hm, hn, hmn, full, BitVec.or_assoc]

/-! ### The positions a write covers (R16) -/

theorem foldl_setBit_getLsbD (P : Nat → Prop) [DecidablePred P] (l : List Nat) (m : BitVec 8) (k : Nat) (hk : k < 8) :
    (l.foldl (fun m i => if P i then m ||| (1#8 <<< i) else m) m).getLsbD k =
      (m.getLsbD k || decide (k ∈ l ∧ P k)) := by
  induction l generalizing m with
  | nil => simp
  | cons i l ih =>
    rw [List.foldl_cons, ih]
    by_cases e : i = k
    · subst e
      by_cases hP : P i <;> simp [hP, hk]
    · have off : (1#8 <<< i).getLsbD k = false := by
        simp [BitVec.getLsbD_shiftLeft, BitVec.getLsbD_one]; omega
      by_cases hP : P i <;> simp [hP, Ne.symm e, off]

theorem writtenMask_getLsbD (off n j k : Nat) (hk : k < 8) :
    (writtenMask off n j).getLsbD k = decide (off ≤ 8 * j + k ∧ 8 * j + k < off + n) := by
  rw [writtenMask, foldl_setBit_getLsbD _ _ _ _ hk]
  simp [hk]

/-- A write covers the position of its first word, and those of the words after it. -/
theorem writtenMask_succ (off n j : Nat) :
    writtenMask off (n + 1) j = (if off / 8 = j then 1#8 <<< (off % 8) else 0#8) ||| writtenMask (off + 1) n j := by
  refine BitVec.eq_of_getLsbD_eq fun k hk => ?_
  have first : (if off / 8 = j then 1#8 <<< (off % 8) else 0#8).getLsbD k = decide (off = 8 * j + k) := by
    split
    · simp only [BitVec.getLsbD_shiftLeft, BitVec.getLsbD_one, hk, decide_true, Bool.true_and]
      rw [Bool.eq_iff_iff]
      simp
      omega
    · simp; omega
  rw [BitVec.getLsbD_or, first, writtenMask_getLsbD _ _ _ _ hk, writtenMask_getLsbD _ _ _ _ hk, ← Bool.decide_or]
  exact decide_eq_decide.mpr (by omega)

theorem writtenMask_zero (off j : Nat) : writtenMask off 0 j = 0#8 := by
  refine BitVec.eq_of_getLsbD_eq fun k hk => ?_
  rw [writtenMask_getLsbD _ _ _ _ hk, BitVec.getLsbD_zero, decide_eq_false_iff_not]
  omega

/-! ### The places of an image (R16) -/

theorem Context.address_eq_some {c : Context} {k a : Nat} :
    c.address k = some a ↔ ∃ b, c.blocks[k / 8]? = some b ∧ a = 8 * b.val + k % 8 := by
  simp [Context.address, eq_comm]

/-- An image that lists each block once has its words at different places. -/
theorem Context.address_inj {c : Context} (nodup : c.blocks.Nodup) {k l a : Nat} (hk : c.address k = some a)
    (hl : c.address l = some a) : k = l := by
  obtain ⟨b, hb, rfl⟩ := Context.address_eq_some.mp hk
  obtain ⟨d, hd, e⟩ := Context.address_eq_some.mp hl
  have same : b = d := Fin.ext (by omega)
  subst same
  have := (List.getElem?_inj (List.getElem?_eq_some_iff.mp hb).1 nodup).mp (hb.trans hd.symm)
  omega

/-! ### One word stored -/

theorem Hub.storeWord_block (h : Hub) (c : Context) (k : Nat) (v : Word) (b : BlockId) :
    (h.storeWord c k v).block b = if c.blocks[k / 8]? = some b
      then (h.block b).after (usedMask c.len (k / 8)) (1#8 <<< (k % 8)) else h.block b := by
  unfold Hub.storeWord
  split
  · next e => simp [e]
  · next d e =>
    rw [Hub.with_memory_block, Hub.setBlock_block, e, Block.rewrite_eq_after _ _ (Nat.mod_lt _ (by decide))]
    simp only [Option.some.injEq, eq_comm (a := b)]
    split
    · next e => rw [e]
    · rfl

theorem Hub.storeWord_read {h : Hub} (wf : h.memory.wf) (c : Context) (k : Nat) (v : Word) (a : Nat) :
    (h.storeWord c k v).memory.read a = if c.address k = some a then v else h.memory.read a := by
  unfold Hub.storeWord Context.address
  split
  · next e => simp [e]
  · next d e =>
    refine (Memory.read_write wf ..).trans ?_
    simp [e, eq_comm (a := a)]

theorem Hub.storeWord_wf {h : Hub} (wf : h.memory.wf) (c : Context) (k : Nat) (v : Word) :
    (h.storeWord c k v).memory.wf := Hub.storeWords_wf wf c k [v]

/-! ### Words stored from an offset onward -/

theorem Hub.storeWords_kept {h : Hub} (wf : h.memory.wf) (c : Context) (off : Nat) (ws : List Word) (a : Nat)
    (out : ∀ k, k < ws.length → c.address (off + k) ≠ some a) :
    (h.storeWords c off ws).memory.read a = h.memory.read a := by
  induction ws generalizing h off with
  | nil => rfl
  | cons w ws ih =>
    have later : ∀ k, k < ws.length → c.address (off + 1 + k) ≠ some a := fun k hk => by
      have := out (k + 1) (by simpa using hk)
      rwa [show off + (k + 1) = off + 1 + k by omega] at this
    rw [Hub.storeWords, ih (Hub.storeWord_wf wf ..) _ later, Hub.storeWord_read wf, if_neg]
    exact out 0 (by simp)

theorem Hub.storeWords_written {h : Hub} (wf : h.memory.wf) {c : Context} (nodup : c.blocks.Nodup) (off : Nat)
    {ws : List Word} {k : Nat} {v : Word} (hk : ws[k]? = some v) {a : Nat} (ha : c.address (off + k) = some a) :
    (h.storeWords c off ws).memory.read a = v := by
  induction ws generalizing h off k with
  | nil => simp at hk
  | cons w ws ih =>
    cases k with
    | zero =>
      rw [Hub.storeWords, Hub.storeWords_kept (Hub.storeWord_wf wf ..) c _ _ _ fun l _ hl => ?_,
        Hub.storeWord_read wf, if_pos (by simpa using ha)]
      · simpa using hk
      · have := Context.address_inj nodup ha hl
        omega
    | succ k =>
      exact ih (Hub.storeWord_wf wf ..) _ (by simpa using hk) (by rwa [show off + 1 + k = off + (k + 1) by omega])

theorem Hub.storeWords_marks (h : Hub) {c : Context} (nodup : c.blocks.Nodup) (off : Nat) (ws : List Word) {j : Nat}
    {b : BlockId} (hj : c.blocks[j]? = some b) : (h.storeWords c off ws).block b =
      (h.block b).after (usedMask c.len j) (writtenMask off ws.length j) := by
  induction ws generalizing h off with
  | nil => simp [Hub.storeWords, writtenMask_zero, Block.after]
  | cons w ws ih =>
    have first : (h.storeWord c off w).block b =
        (h.block b).after (usedMask c.len j) (if off / 8 = j then 1#8 <<< (off % 8) else 0#8) := by
      rw [Hub.storeWord_block]
      by_cases e : off / 8 = j
      · rw [e, if_pos hj, if_pos rfl]
      · rw [if_neg e, if_neg, Block.after, if_pos (.inl rfl)]
        exact fun hb => e ((List.getElem?_inj (List.getElem?_eq_some_iff.mp hb).1 nodup).mp (hb.trans hj.symm))
    rw [Hub.storeWords, ih, first, Block.after_after, List.length_cons, writtenMask_succ]

theorem Hub.storeWords_others (h : Hub) {c : Context} (off : Nat) (ws : List Word) {b : BlockId} (hb : b ∉ c.blocks) :
    (h.storeWords c off ws).block b = h.block b := by
  induction ws generalizing h off with
  | nil => rfl
  | cons w ws ih => rw [Hub.storeWords, ih, Hub.storeWord_block, if_neg fun e => hb (List.mem_of_getElem? e)]

/-- The words stored stand where R16 puts them, and the blocks written are marked as R19 says. -/
theorem Hub.storeWords_stores {h : Hub} (wf : h.memory.wf) {c : Context} (legal : c.BlocksLegal) (off : Nat)
    (ws : List Word) : h.Stores (h.storeWords c off ws) c off ws where
  written _ _ hk _ ha := Hub.storeWords_written wf legal.1 off hk ha
  kept a out := Hub.storeWords_kept wf c off ws a out
  marks _ _ hj := h.storeWords_marks legal.1 off ws hj
  others _ hb := h.storeWords_others off ws hb

/-- A write changes its frame, the blocks the frame lists and stored words, and nothing else. -/
theorem Hub.storeWords_sameBeyond (h : Hub) (c : Context) (j : FrameId) (off : Nat) (ws : List Word) :
    h.SameBeyond (h.storeWords c off ws) { frames := (· = j), blocks := (· ∈ c.blocks), words := fun _ => True } :=
  let ⟨frames, classes, ports, waitList, isolation⟩ := h.storeWords_rest c off ws
  ⟨fun i _ => frames i, fun p _ => ports p, fun k _ => classes k, fun _ hb => h.storeWords_others off ws hb,
    fun _ ha => absurd trivial ha, fun _ => waitList, fun _ => isolation⟩

/-- A write whose frame then takes new fields stores the same words, and gives the frame those fields. -/
theorem Hub.storeWords_putCtx {h : Hub} {c d : Context} {j : FrameId} {off : Nat} {ws : List Word}
    (stores : h.Stores (h.storeWords c off ws) c off ws) :
    (h.Stores ((h.storeWords c off ws).putCtx j d) c off ws ∧ h.SameBeyond ((h.storeWords c off ws).putCtx j d)
      { frames := (· = j), blocks := (· ∈ c.blocks), words := fun _ => True }) ∧
      ((h.storeWords c off ws).putCtx j d).frame j = { h.frame j with ctx := some d } := by
  obtain ⟨written, kept, marks, others⟩ := stores
  have same := h.storeWords_sameBeyond c j off ws
  refine ⟨⟨⟨written, kept, marks, others⟩, { same with frames := fun i hi => ?_ }⟩, ?_⟩
  · rw [Hub.putCtx_frame, if_neg hi, same.frames i hi]
  · rw [Hub.putCtx_frame, if_pos rfl, (h.storeWords_rest c off ws).1]

/-! ### The write requests (R45, R46, R71, R165) -/

/-- The argument words of a write give its offset and its words, where there are 1 to 16 of them. -/
theorem readWrite_handleWord (h : Hub) (j : FrameId) {off : Nat} (hoff : off < 64) (ws : List Word) :
    readWrite (h.handleWord j (rangeHalf off 0)) ws =
      if 1 ≤ ws.length ∧ ws.length ≤ 16 then some (off, ws) else none := by
  have unused : rangeHalf off 0 &&& 0xFFC0#16 = 0#16 := by
    rw [show (0xFFC0#16) = 0x1F#5 ++ 0x1F#5 ++ 0#6 from rfl, rangeHalf, BitVec.and_append, BitVec.and_append]
    simp
  have clear : clearIn (h.handleWord j (rangeHalf off 0)) 0xFFC00000#32 = true :=
    (clearIn_append (rangeHalf off 0) (h.handle j) 0xFFC0#16).trans (by rw [unused]; rfl)
  have offset : (bits (h.handleWord j (rangeHalf off 0)) 16 6).toNat = off := by
    simp only [bits, Hub.handleWord, rangeHalf]
    rw [BitVec.extractLsb'_append_eq_of_le (by decide), BitVec.extractLsb'_append_eq_of_add_le (by decide),
      BitVec.extractLsb'_eq_self, BitVec.toNat_ofNat]
    omega
  simp only [readWrite, clear, offset, Bool.true_and, decide_eq_true_eq, Config.moveMax]

section Writes
variable {s : State} {p : PortId} {tag : Tag} {j : FrameId} {c : Context} {off : Nat} {ws : List Word}
  (on : s.hub.online p = true) (used : s.hub.ctx j = some c) (inRange : off < 64) (positive : 1 ≤ ws.length)
  (few : ws.length ≤ 16)
include on used inRange positive few

theorem bodyOf_parkWrite {n : Nat} (place : c.place = .filling p n) :
    bodyOf s.hub (.parkWrite p tag (s.hub.handleWord j (rangeHalf off 0) :: ws)) =
      s.hub.parkWriteWith p j c (off, ws) := by
  have hb := bodyOf_handled (i := .parkWrite p tag (s.hub.handleWord j (rangeHalf off 0) :: ws)) on used
    (Place.filling_isFillingOf place) rfl
  rwa [readWrite_handleWord _ _ inRange, if_pos ⟨positive, few⟩] at hb

theorem bodyOf_writeImage {m : Bool} (place : c.place = .held p m) :
    bodyOf s.hub (.writeImage p tag (s.hub.handleWord j (rangeHalf off 0) :: ws)) =
      s.hub.writeImageWith p j c (off, ws) := by
  have hb := bodyOf_handled (i := .writeImage p tag (s.hub.handleWord j (rangeHalf off 0) :: ws)) on used
    (Place.held_isHeldOf place) rfl
  rwa [readWrite_handleWord _ _ inRange, if_pos ⟨positive, few⟩] at hb

theorem bodyOf_isolationWrite {r : IsoReason} (place : c.place = .isolated r) :
    bodyOf s.hub (.isolationWrite p tag (s.hub.handleWord j (rangeHalf off 0) :: ws)) =
      s.hub.isolationWriteWith c (off, ws) := by
  have hb := bodyOf_handled (i := .isolationWrite p tag (s.hub.handleWord j (rangeHalf off 0) :: ws)) on used
    (Place.isolated_isIsolated place) rfl
  rwa [readWrite_handleWord _ _ inRange, if_pos ⟨positive, few⟩] at hb

end Writes

end Sys2Proof.Machine

/-- Settles O14: each of the three is `Hub.storeWords`, and PARK_WRITE and WRITE_IMAGE then replace the place of the
frame. -/
theorem imageWritesStoreTheirWords : Obligations.ImageWritesStoreTheirWords := by
  intro s p tag j c off ws wf on used legal _ inRange positive few
  have stores := Hub.storeWords_stores wf legal off ws
  refine ⟨fun admitted place fits => ?_, fun admitted m place => ?_, fun admitted r place => ?_⟩
  · have hb := bodyOf_parkWrite (tag := tag) on used inRange positive few place
    have taken : s.hub.parkWriteWith p j c (off, ws) =
        (s.hub.fillWords p j c off ws, .okWith [valueWord (off + ws.length)]) := by
      simp [Hub.parkWriteWith, place, Place.fill, fits]
    rw [taken] at hb
    exact takes_body rfl admitted (by rw [hb]) (by rw [hb]; exact Hub.storeWords_putCtx stores)
  · have hb := bodyOf_writeImage (tag := tag) on used inRange positive few place
    unfold Hub.writeImageWith at hb
    split
    · next fits =>
      rw [if_neg (Nat.not_lt.mpr fits)] at hb
      exact takes_body rfl admitted (by rw [hb]) (by rw [hb]; exact Hub.storeWords_putCtx stores)
    · next past =>
      rw [if_pos (Nat.lt_of_not_le past)] at hb
      exact refused_body rfl admitted hb
  · have hb := bodyOf_isolationWrite (tag := tag) on used inRange positive few place
    unfold Hub.isolationWriteWith at hb
    split
    · next fits =>
      rw [if_neg (Nat.not_lt.mpr fits)] at hb
      exact takes_body rfl admitted (by rw [hb]) (by rw [hb]; exact ⟨⟨stores, s.hub.storeWords_sameBeyond c j off ws⟩,
        (s.hub.storeWords_rest c off ws).1 j⟩)
    · next past =>
      rw [if_pos (Nat.lt_of_not_le past)] at hb
      exact refused_body rfl admitted hb
end

section
/-!
PARK_OPEN: the words that carry it (R180), the validity of its control record (R15), its refusals (R40), and the frame
and blocks it takes (R17, R42). The refusals of PARK_WRITE (R45).
-/
open Sys2Proof Sys2Proof.Machine
namespace Sys2Proof.Machine

/-! ### The words of a PARK_OPEN (R180) -/

/-- Word 1 of a PARK_OPEN: its lower half holds class, base priority, affinity and resume mode, its upper half is
given. -/
def parkHead (upper : BitVec 16) (r : RawControl) : Word :=
  upper ++ 0#2 ++ BitVec.ofNat 2 r.resume ++ r.affinity ++ 0#2 ++ BitVec.ofNat 2 r.base ++ 0#1 ++
    BitVec.ofFin (w := 3) r.cls

/-- The upper half of word 1 without a trapped access: image length and wait marker. -/
def plainHalf (len : Nat) (waitMarker : Bool) : BitVec 16 :=
  0#1 ++ BitVec.ofNat 7 len ++ 0#7 ++ BitVec.ofBool waitMarker

/-- The upper half of word 1 with a trapped access: image length, width, direction, the present bit and wait marker. -/
def trapHalf (len : Nat) (waitMarker : Bool) (t : RawTrap) : BitVec 16 :=
  0#1 ++ BitVec.ofNat 7 len ++ 0#1 ++
    (BitVec.ofNat 3 t.width ++ 0#1 ++ BitVec.ofBool t.write ++ 1#1 ++ BitVec.ofBool waitMarker : BitVec 7)

theorem parkOpenWords_eq (a : ParkOpenArgs) : parkOpenWords a = match a.control.trap with
    | none => [parkHead (plainHalf a.len a.control.waitMarker) a.control, halfWord a.check]
    | some t => parkHead (trapHalf a.len a.control.waitMarker t) a.control :: halfWord a.check :: t.address ::
        t.value.toList := by
  unfold parkOpenWords
  cases a.control.trap <;> rfl

theorem toNat_ofNat_of_lt {w n : Nat} (hn : n < 2 ^ w) : (BitVec.ofNat w n).toNat = n := by
  rw [BitVec.toNat_ofNat, Nat.mod_eq_of_lt hn]

section Head
variable (u : BitVec 16) (r : RawControl)

theorem parkHead_clear : clearIn (parkHead u r) 0x8088C0C8#32 = (u &&& 0x8088#16 == 0#16) := by
  have mask : 0x8088C0C8#32 = 0x8088#16 ++ 3#2 ++ 0#2 ++ 0#4 ++ 3#2 ++ 0#2 ++ 1#1 ++ 0#3 := rfl
  have zero : 0#32 = 0#16 ++ 0#2 ++ 0#2 ++ 0#4 ++ 0#2 ++ 0#2 ++ 0#1 ++ 0#3 := rfl
  rw [clearIn, parkHead, mask, zero, Bool.eq_iff_iff, beq_iff_eq, beq_iff_eq]
  iterate 7 rw [BitVec.and_append]
  simp only [BitVec.zero_and, BitVec.and_zero]
  iterate 7 rw [BitVec.append_left_inj]

theorem parkHead_upper (k n : Nat) : bits (parkHead u r) (16 + k) n = u.extractLsb' k n := by
  simp (disch := omega) only [parkHead, bits, BitVec.extractLsb'_append_eq_of_le]
  congr 1
  omega

theorem parkHead_bit (k : Nat) : bit (parkHead u r) (16 + k) = u.getLsbD k := by
  simp (disch := omega) only [parkHead, bit, BitVec.getLsbD_append, if_neg]
  congr 1
  omega

theorem parkHead_lower : bits (parkHead u r) 0 3 = BitVec.ofFin (w := 3) r.cls ∧
    bits (parkHead u r) 4 2 = BitVec.ofNat 2 r.base ∧ bits (parkHead u r) 8 4 = r.affinity ∧
    bits (parkHead u r) 12 2 = BitVec.ofNat 2 r.resume := by
  simp (disch := omega) only [parkHead, bits, BitVec.extractLsb'_append_eq_of_add_le,
    BitVec.extractLsb'_append_eq_of_le]
  simp

end Head

/-- The lower half of word 1 gives back the control record, with the wait marker of the upper half. -/
theorem parkControl_parkHead {u : BitVec 16} {r : RawControl} (base : r.base < 4) (resume : r.resume < 4)
    (marker : u.getLsbD 0 = r.waitMarker) : parkControl (parkHead u r) r.trap = r := by
  have mark := (parkHead_bit u r 0).trans marker
  obtain ⟨hc, hb, ha, hr⟩ := parkHead_lower u r
  simp only [parkControl, hc, hb, ha, hr]
  rw [toNat_ofNat_of_lt base, toNat_ofNat_of_lt resume, mark]

section Halves
variable {len : Nat} (m : Bool)

/-- The fields of the upper half without a trapped access. -/
theorem plainHalf_fields (hlen : len < 128) : plainHalf len m &&& 0x8088#16 = 0#16 ∧
    ((plainHalf len m).extractLsb' 8 7).toNat = len ∧ (plainHalf len m).getLsbD 0 = m ∧
    (plainHalf len m).getLsbD 1 = false := by
  refine ⟨?_, ?_, ?_, ?_⟩
  · rw [show 0x8088#16 = 1#1 ++ 0#7 ++ 0x44#7 ++ 0#1 from rfl, plainHalf]
    iterate 3 rw [BitVec.and_append]
    simp only [BitVec.zero_and, BitVec.and_zero]
    rfl
  · simp (disch := omega) only [plainHalf, BitVec.extractLsb'_append_eq_of_add_le, BitVec.extractLsb'_append_eq_of_le]
    simp; omega
  · simp only [plainHalf, BitVec.getLsbD_append]; simp
  · simp only [plainHalf, BitVec.getLsbD_append]; simp

/-- The fields of the upper half with a trapped access. -/
theorem trapHalf_fields (hlen : len < 128) {t : RawTrap} (width : t.width < 8) :
    trapHalf len m t &&& 0x8088#16 = 0#16 ∧ ((trapHalf len m t).extractLsb' 8 7).toNat = len ∧
    (trapHalf len m t).getLsbD 0 = m ∧ (trapHalf len m t).getLsbD 1 = true ∧
    (trapHalf len m t).getLsbD 2 = t.write ∧ ((trapHalf len m t).extractLsb' 4 3).toNat = t.width := by
  refine ⟨?_, ?_, ?_, ?_, ?_, ?_⟩
  · rw [show 0x8088#16 = 1#1 ++ 0#7 ++ 1#1 ++ (0#3 ++ 1#1 ++ 0#1 ++ 0#1 ++ 0#1 : BitVec 7) from rfl, trapHalf]
    iterate 7 rw [BitVec.and_append]
    simp only [BitVec.zero_and, BitVec.and_zero]
    rfl
  · simp (disch := omega) only [trapHalf, BitVec.extractLsb'_append_eq_of_add_le, BitVec.extractLsb'_append_eq_of_le]
    simp; omega
  · simp only [trapHalf, BitVec.getLsbD_append]; simp
  · simp only [trapHalf, BitVec.getLsbD_append]; simp
  · simp only [trapHalf, BitVec.getLsbD_append]; simp
  · simp (disch := omega) only [trapHalf, BitVec.extractLsb'_append_eq_of_add_le, BitVec.extractLsb'_append_eq_of_le]
    simp; omega

end Halves

theorem halfWord_check (x : BitVec 16) : clearIn (halfWord x) 0xFFFF0000#32 = true ∧ bits (halfWord x) 0 16 = x :=
  ⟨clearIn_append 0#16 x 0xFFFF#16, by
    rw [bits, halfWord, BitVec.extractLsb'_append_eq_of_add_le (by decide), BitVec.extractLsb'_eq_self]⟩

/-- The trapped access in word 1 and the words after word 2 is the one that is carried (R180). -/
theorem parkTrap_parkHead {u : BitVec 16} {r : RawControl} {t : RawTrap} (present : u.getLsbD 1 = true)
    (write : u.getLsbD 2 = t.write) (width : (u.extractLsb' 4 3).toNat = t.width) :
    parkTrap (parkHead u r) (t.address :: t.value.toList) = some (some t) := by
  have h17 : bit (parkHead u r) 17 = true := (parkHead_bit u r 1).trans present
  have h18 : bit (parkHead u r) 18 = t.write := (parkHead_bit u r 2).trans write
  have h20 : (bits (parkHead u r) 20 3).toNat = t.width := (congrArg _ (parkHead_upper u r 4 3)).trans width
  obtain ⟨address, write, width, value⟩ := t
  cases value <;> simp only [Option.toList, parkTrap, parkTrap.rawTrap, h17, h18, h20, if_true]

/-- The words of a PARK_OPEN give back its fields. -/
theorem readParkOpen_parkOpenWords {a : ParkOpenArgs} (fits : a.Fits) :
    readParkOpen (parkOpenWords a) = some a := by
  obtain ⟨base, resume, small, width⟩ := fits
  obtain ⟨clear, check⟩ := halfWord_check a.check
  obtain ⟨r, len, x⟩ := a
  have read : ∀ {u : BitVec 16} {rest : List Word}, u &&& 0x8088#16 = 0#16 → (u.extractLsb' 8 7).toNat = len →
      u.getLsbD 0 = r.waitMarker → parkTrap (parkHead u r) rest = some r.trap →
      readParkOpen (parkHead u r :: halfWord x :: rest) = some { control := r, len := len, check := x } := by
    intro u rest unused length marker trap
    have h24 : (bits (parkHead u r) 24 7).toNat = len := (congrArg _ (parkHead_upper u r 8 7)).trans length
    have control : parkControl (parkHead u r) r.trap = r := parkControl_parkHead base resume marker
    simp [readParkOpen, parkHead_clear, unused, clear, trap, control, h24, check]
  rw [parkOpenWords_eq]
  cases ht : r.trap with
  | none =>
    obtain ⟨unused, length, marker, absent⟩ := plainHalf_fields r.waitMarker small
    have absent' : bit (parkHead (plainHalf len r.waitMarker) r) 17 = false := (parkHead_bit _ r 1).trans absent
    exact read unused length marker (by simp only [parkTrap, absent', ht]; rfl)
  | some t =>
    obtain ⟨unused, length, marker, present, write, bytes⟩ := trapHalf_fields r.waitMarker small (width t ht)
    exact read unused length marker (by rw [parkTrap_parkHead present write bytes, ht])

/-! ### The validity of a control record (R15) -/

theorem val_of_prioOf {n : Nat} {b : Prio} (e : prioOf n = some b) : b.val = n := by
  unfold prioOf at e
  split at e
  · cases e; rfl
  · cases e

/-- A resume mode is the coding of the value it was read from, and its wait marker and trapped access are there. -/
theorem code_of_resumeOf {n : Nat} {w t : Bool} {m : ResumeMode} (e : resumeOf n w t = some m) :
    m.code.toNat = n ∧ n ≤ 2 ∧ (n = 1 → w = true) ∧ (n = 2 → t = true) := by
  unfold resumeOf at e
  split at e
  · cases e; simp [ResumeMode.code]
  · split at e
    · next hw => cases e; simp [ResumeMode.code, hw]
    · cases e
  · split at e
    · next ht => cases e; simp [ResumeMode.code, ht]
    · cases e
  · cases e

theorem resumeOf_isSome {n : Nat} {w t : Bool} (small : n ≤ 2) (wait : n = 1 → w = true) (retry : n = 2 → t = true) :
    ∃ m, resumeOf n w t = some m := by
  match n, small with
  | 0, _ => exact ⟨_, rfl⟩
  | 1, _ => exact ⟨.wait, by simp [resumeOf, wait rfl]⟩
  | 2, _ => exact ⟨.retry, by simp [resumeOf, retry rfl]⟩

theorem bytes_of_widthOf {n : Nat} {w : Width} (e : widthOf n = some w) : w.bytes = n := by
  unfold widthOf at e
  split at e <;> cases e <;> rfl

/-- A trapped-access record is carried as the access it was read from. -/
theorem RawTrap.raw_of_check {t : RawTrap} {u : Trap} (e : t.check = some u) : u.raw = t := by
  obtain ⟨address, write, width, value⟩ := t
  unfold RawTrap.check at e
  split at e
  · next a w ha hw =>
    cases e
    have bytes := bytes_of_widthOf hw
    unfold accessOf at ha
    split at ha
    · next reads none => cases ha; dsimp only at reads none; subst reads none; simp only [Trap.raw, bytes]
    · next writes carried => cases ha; dsimp only at writes carried; subst writes carried; simp only [Trap.raw, bytes]
    · cases ha
  · cases e

/-- The record of an access has one of the three widths, and a write value exactly where it writes (R11). -/
theorem Trap.raw_form (u : Trap) : (u.raw.width = 1 ∨ u.raw.width = 2 ∨ u.raw.width = 4) ∧
    u.raw.value.isSome = u.raw.write := by
  obtain ⟨address, access, width⟩ := u
  cases access <;> cases width <;> simp [Trap.raw, Width.bytes]

theorem RawTrap.check_isSome {t : RawTrap} (width : t.width = 1 ∨ t.width = 2 ∨ t.width = 4)
    (value : t.value.isSome = t.write) : ∃ u, t.check = some u := by
  obtain ⟨address, write, w, v⟩ := t
  dsimp only at width value
  subst value
  rcases width with rfl | rfl | rfl <;> cases v <;> exact ⟨_, rfl⟩

theorem raw_of_trapOf {t : Option RawTrap} {u : Option Trap} (e : trapOf t = some u) : u.map Trap.raw = t := by
  cases t with
  | none => cases e; rfl
  | some t =>
    obtain ⟨v, hv, rfl⟩ := Option.map_eq_some_iff.mp (show t.check.map some = some u from e)
    exact congrArg some (RawTrap.raw_of_check hv)

/-- A control record that passes the check is valid (R15), and is stored as it was carried. -/
theorem RawControl.valid_of_check {r : RawControl} {enabled : Bool} {k : Control} (e : r.check enabled = some k) :
    r.Valid enabled ∧ k.raw = r := by
  unfold RawControl.check at e
  split at e
  · cases e
  · next passes =>
    split at e
    · next b m t hb hm ht =>
      cases e
      simp only [Bool.or_eq_true, Bool.not_eq_true', beq_iff_eq, not_or, Bool.not_eq_false] at passes
      have base := val_of_prioOf hb
      obtain ⟨code, small, wait, retry⟩ := code_of_resumeOf hm
      have trap := raw_of_trapOf ht
      refine ⟨⟨passes.1, passes.2, by have := b.isLt; omega, small, wait, retry, fun x hx => ?_⟩, ?_⟩
      · rw [← trap] at hx
        obtain ⟨u, -, rfl⟩ := Option.map_eq_some_iff.mp hx
        exact u.raw_form
      · simp only [Control.raw, base, code, trap]
    · cases e

/-- A valid control record passes the check (R15). -/
theorem RawControl.check_of_valid {r : RawControl} {enabled : Bool} (v : r.Valid enabled) :
    ∃ k, r.check enabled = some k := by
  obtain ⟨rfl, affinity, base, resume, wait, retry, trap⟩ := v
  have hb : prioOf r.base = some ⟨r.base, Nat.lt_succ_of_le base⟩ := dif_pos _
  obtain ⟨m, hm⟩ := resumeOf_isSome resume wait retry
  have ht : ∃ t, trapOf r.trap = some t := by
    cases hr : r.trap with
    | none => exact ⟨_, rfl⟩
    | some x =>
      obtain ⟨width, value⟩ := trap x hr
      obtain ⟨u, hu⟩ := RawTrap.check_isSome width value
      exact ⟨some u, congrArg (Option.map some) hu⟩
  obtain ⟨t, ht⟩ := ht
  simp [RawControl.check, affinity, hb, hm, ht]

theorem RawControl.check_of_not_valid {r : RawControl} {enabled : Bool} (v : ¬ r.Valid enabled) :
    r.check enabled = none :=
  Option.eq_none_iff_forall_ne_some.mpr fun _ e => v (RawControl.valid_of_check e).1

/-! ### The lowest frame and the lowest blocks (R17) -/

theorem Hub.lowestFree_eq_none {h : Hub} (full : ∀ j, h.ctx j ≠ none) : h.lowestFree = none := by
  simpa [Hub.lowestFree] using full

theorem Hub.lowestFree_isSome {h : Hub} {j : FrameId} (free : h.ctx j = none) : ∃ i, h.lowestFree = some i :=
  Option.isSome_iff_exists.mp (List.find?_isSome.mpr ⟨j, List.mem_finRange j, by rw [free]; rfl⟩)

theorem Hub.lowestFree_eq_some {h : Hub} {j : FrameId} (free : h.ctx j = none) (lowest : ∀ l, l < j → h.ctx l ≠ none) :
    h.lowestFree = some j := by
  refine List.find?_eq_some_iff_getElem.mpr ⟨by rw [free]; rfl, j.val, by simp, by simp, fun l hl => ?_⟩
  simpa [Option.isSome_iff_ne_none] using lowest ⟨l, hl.trans j.isLt⟩ hl

theorem Hub.freeBlocks_sorted (h : Hub) : h.freeBlocks.Pairwise (· < ·) :=
  (List.pairwise_lt_finRange 128).filter _

/-- Free blocks in ascending order with every other free block above them are the first of the free set. -/
theorem Hub.take_freeBlocks {h : Hub} {bs : List BlockId} (sorted : bs.Pairwise (· < ·))
    (free : ∀ b ∈ bs, (h.block b).free = true)
    (lowest : ∀ b, (h.block b).free = true → b ∉ bs → ∀ b' ∈ bs, b' < b) : h.freeBlocks.take bs.length = bs := by
  have above : ∀ b ∈ h.freeBlocks.filter (· ∉ bs), ∀ b' ∈ bs, b' < b := fun b hb => by
    obtain ⟨hb, hn⟩ := List.mem_filter.mp hb
    exact lowest b (Hub.mem_freeBlocks.mp hb) (by simpa using hn)
  have split : bs ++ h.freeBlocks.filter (· ∉ bs) = h.freeBlocks := by
    have sorted' : (bs ++ h.freeBlocks.filter (· ∉ bs)).Pairwise (· < ·) :=
      List.pairwise_append.mpr ⟨sorted, h.freeBlocks_sorted.filter _, fun b' hb' b hb => above b hb b' hb'⟩
    refine List.Perm.eq_of_pairwise (fun a b _ _ x y => absurd x (lt_asymm y)) sorted' h.freeBlocks_sorted ?_
    refine (List.perm_ext_iff_of_nodup (sorted'.imp ne_of_lt) h.freeBlocks_nodup).mpr fun b => ?_
    simp only [List.mem_append, List.mem_filter, decide_eq_true_eq]
    by_cases hb : b ∈ bs
    · simp [hb, Hub.mem_freeBlocks, free b hb]
    · simp [hb]
  rw [← split, List.take_left]

/-! ### PARK_OPEN (R40, R42) -/

theorem bodyOf_parkOpen {s : State} {p : PortId} {tag : Tag} {a : ParkOpenArgs} (on : s.hub.online p = true)
    (fits : a.Fits) : bodyOf s.hub (.parkOpen p tag (parkOpenWords a)) = s.hub.parkOpenWith p a := by
  show s.hub.session .parkOpen p (s.hub.form (readParkOpen (parkOpenWords a)) (s.hub.parkOpenWith p)) = _
  rw [Hub.session_online on, readParkOpen_parkOpenWords fits]
  rfl

section Conditions
variable {h : Hub} {p : PortId} {a : ParkOpenArgs}

theorem Hub.parkOpenWith_invalid (invalid : ¬ a.control.Valid (h.cls a.control.cls).enabled) :
    h.parkOpenWith p a = (h, .bare .invalid) := by
  simp only [Hub.parkOpenWith, RawControl.check_of_not_valid invalid]

variable (valid : a.control.Valid (h.cls a.control.cls).enabled)
include valid

theorem Hub.parkOpenWith_badValue (len : ¬ (1 ≤ a.len ∧ a.len ≤ 64)) : h.parkOpenWith p a = (h, .bare .badValue) := by
  obtain ⟨c, hc⟩ := RawControl.check_of_valid valid
  have len' : a.len < 1 ∨ Config.imageMax < a.len := by unfold Config.imageMax; omega
  simp only [Hub.parkOpenWith, hc, if_pos len']

variable (len : 1 ≤ a.len ∧ a.len ≤ 64)
include len

/-- The control record of a PARK_OPEN that passes the first two conditions of R40, as it is stored. -/
theorem Hub.parkOpen_control : ∃ c : Control, a.control.check (h.cls a.control.cls).enabled = some c ∧
    c.raw = a.control ∧ c.cls = a.control.cls ∧ ¬ (a.len < 1 ∨ Config.imageMax < a.len) := by
  obtain ⟨c, hc⟩ := RawControl.check_of_valid valid
  exact ⟨c, hc, (RawControl.valid_of_check hc).2, (RawControl.passes_of_check hc).cls, by unfold Config.imageMax; omega⟩

theorem Hub.parkOpenWith_fillLimit (filling : 2 ≤ (h.port p).filling.length) :
    h.parkOpenWith p a = (h, .bare .fillLimit) := by
  obtain ⟨c, hc, -, -, fits⟩ := Hub.parkOpen_control valid len
  simp only [Hub.parkOpenWith, hc, if_neg fits, if_pos filling]

variable (filling : (h.port p).filling.length < 2)
include filling

theorem Hub.parkOpenWith_classFull (full : (h.cls a.control.cls).limit ≤ (h.cls a.control.cls).population) :
    h.parkOpenWith p a = (h, .bare .classFull) := by
  obtain ⟨c, hc, -, cls, fits⟩ := Hub.parkOpen_control valid len
  simp only [Hub.parkOpenWith, hc, if_neg fits, if_neg (Nat.not_le_of_lt filling), cls, if_pos full]

variable (room : (h.cls a.control.cls).population < (h.cls a.control.cls).limit)
include room

theorem Hub.parkOpenWith_noFrame (full : h.lowestFree = none) : h.parkOpenWith p a = (h, .bare .noFrame) := by
  obtain ⟨c, hc, -, cls, fits⟩ := Hub.parkOpen_control valid len
  simp only [Hub.parkOpenWith, hc, if_neg fits, if_neg (Nat.not_le_of_lt filling), cls,
    if_neg (Nat.not_le_of_lt room), full]

variable {i : FrameId} (lowest : h.lowestFree = some i)
include lowest

theorem Hub.parkOpenWith_noSpace (space : h.freeBlocks.length < (a.len + 7) / 8) :
    h.parkOpenWith p a = (h, .bare .noSpace) := by
  obtain ⟨c, hc, -, cls, fits⟩ := Hub.parkOpen_control valid len
  simp only [Hub.parkOpenWith, hc, if_neg fits, if_neg (Nat.not_le_of_lt filling), cls,
    if_neg (Nat.not_le_of_lt room), lowest]
  exact if_pos space

/-- A PARK_OPEN that passes R40 opens the park with its control record (R42, R43). -/
theorem Hub.parkOpenWith_opened (space : (a.len + 7) / 8 ≤ h.freeBlocks.length) :
    ∃ c : Control, c.raw = a.control ∧ c.cls = a.control.cls ∧
      h.parkOpenWith p a = (h.openPark p i c a.len a.check, .okWith [halfWord (h.handle i)]) := by
  obtain ⟨c, hc, raw, cls, fits⟩ := Hub.parkOpen_control valid len
  refine ⟨c, raw, cls, ?_⟩
  simp only [Hub.parkOpenWith, hc, if_neg fits, if_neg (Nat.not_le_of_lt filling), cls,
    if_neg (Nat.not_le_of_lt room), lowest]
  exact if_neg (Nat.not_lt_of_le space)

end Conditions

/-- What a park that opens changes, and that nothing else changes (R42). -/
theorem Hub.openPark_opened (h : Hub) (p : PortId) (j : FrameId) (c : Control) (len : Nat) (check : BitVec 16)
    {bs : List BlockId} (blocks : h.freeBlocks.take (blocksFor len) = bs) :
    let g := h.openPark p j c len check
    g.frame j = { gen := (h.frame j).gen, ctx := some (openedContext p c len check bs) } ∧
    g.port p = { h.port p with filling := (h.port p).filling ++ [j] } ∧
    g.cls c.cls = { h.cls c.cls with population := (h.cls c.cls).population + 1 } ∧
    (∀ b ∈ bs, g.block b = { h.block b with free := false }) ∧
    h.SameBeyond g { frames := (· = j), ports := (· = p), classes := (· = c.cls), blocks := (· ∈ bs) } := by
  obtain ⟨memory, waitList, isolation⟩ := h.openPark_rest p j c len check
  subst blocks
  refine ⟨?_, ?_, ?_, fun b hb => ?_, fun i hi => ?_, fun q hq => ?_, fun k hk => ?_, fun b hb => ?_,
    fun a _ => by rw [memory], fun _ => waitList, fun _ => isolation⟩
  · rw [Hub.openPark_frame, if_pos rfl]
  · rw [Hub.openPark_port, if_pos rfl]
  · rw [Hub.openPark_cls, if_pos rfl]
  · rw [Hub.openPark_block, if_pos hb]
  · rw [Hub.openPark_frame, if_neg hi]
  · rw [Hub.openPark_port, if_neg hq]
  · rw [Hub.openPark_cls, if_neg hk]
  · rw [Hub.openPark_block, if_neg hb]

/-! ### The refusals of PARK_WRITE (R45) -/

/-- A PARK_WRITE of no word, or of more than 16, breaks its form (R45, R178). -/
theorem bodyOf_parkWrite_form {s : State} {p : PortId} {tag : Tag} {j : FrameId} {c : Context} {n off : Nat}
    {ws : List Word} (on : s.hub.online p = true) (used : s.hub.ctx j = some c) (place : c.place = .filling p n)
    (inRange : off < 64) (count : ws.length < 1 ∨ 16 < ws.length) :
    bodyOf s.hub (.parkWrite p tag (s.hub.handleWord j (rangeHalf off 0) :: ws)) = (s.hub, .bare .badValue) := by
  have hb := bodyOf_handled (i := .parkWrite p tag (s.hub.handleWord j (rangeHalf off 0) :: ws)) on used
    (Place.filling_isFillingOf place) rfl
  rwa [readWrite_handleWord _ _ inRange, if_neg (by omega)] at hb

end Sys2Proof.Machine

/-- Settles O12: the conditions of R40 and R45 stand in the model in the order of their tables. -/
theorem parkRequestsAreRefusedInOrder : Obligations.ParkRequestsAreRefusedInOrder := by
  refine ⟨fun s p tag a fits => ?_, fun s p tag j c n off ws => ?_⟩
  · intro i k admitted on
    have refuse : ∀ {why : Result}, s.hub.parkOpenWith p a = (s.hub, .bare why) → Refused i s why := fun e =>
      refused_body rfl admitted ((bodyOf_parkOpen on fits).trans e)
    refine ⟨fun invalid => refuse (Hub.parkOpenWith_invalid invalid), fun valid =>
      ⟨fun len => refuse (Hub.parkOpenWith_badValue valid len), fun len =>
      ⟨fun filling => refuse (Hub.parkOpenWith_fillLimit valid len filling), fun filling =>
      ⟨fun full => refuse (Hub.parkOpenWith_classFull valid len filling (Nat.le_of_eq full.symm)), fun room =>
      ⟨fun full => refuse (Hub.parkOpenWith_noFrame valid len filling room (Hub.lowestFree_eq_none full)),
      fun ⟨l, free⟩ space => ?_⟩⟩⟩⟩⟩
    obtain ⟨l, lowest⟩ := Hub.lowestFree_isSome free
    exact refuse (Hub.parkOpenWith_noSpace valid len filling room lowest space)
  · intro i admitted on used place inRange
    have fill : c.place.fill = n := by rw [place]; rfl
    refine ⟨fun count => refused_body rfl admitted (bodyOf_parkWrite_form on used place inRange count),
      fun positive few => ⟨fun apart => ?_, fun at_fill past => ?_⟩⟩
    · have hb := bodyOf_parkWrite (tag := tag) on used inRange positive few place
      rw [Hub.parkWriteWith, fill, if_pos apart] at hb
      exact takes_body rfl admitted (by rw [hb]) (by rw [hb])
    · have hb := bodyOf_parkWrite (tag := tag) on used inRange positive few place
      rw [Hub.parkWriteWith, fill, if_neg (not_not.mpr at_fill), if_pos past] at hb
      exact refused_body rfl admitted hb

/-- Settles O13: the lowest FREE frame and the first blocks of the free set are those the statement names. -/
theorem parkOpenTakesTheLowestFrameAndBlocks : Obligations.ParkOpenTakesTheLowestFrameAndBlocks := by
  intro s p tag a j bs fits i k admitted on valid positive short filling room unused lowest count sorted free others
  have blocks : s.hub.freeBlocks.take ((a.len + 7) / 8) = bs := count ▸ Hub.take_freeBlocks sorted free others
  have space : (a.len + 7) / 8 ≤ s.hub.freeBlocks.length := by
    rw [← count, ← blocks]; exact List.length_take_le' ..
  obtain ⟨c, raw, cls, opened⟩ := Hub.parkOpenWith_opened valid ⟨positive, short⟩ filling room
    (Hub.lowestFree_eq_some unused lowest) space
  have hb := (bodyOf_parkOpen (tag := tag) on fits).trans opened
  have done := s.hub.openPark_opened p j c a.len a.check blocks
  rw [cls] at done
  exact ⟨c, raw, takes_body rfl admitted (by rw [hb]) (by rw [hb]; exact done)⟩
end

section
/-!
CLAIM: what its selection finds in a hub whose frames are filed (R62), and what it does with it (R28, R60 to R64).
-/
open Sys2Proof Sys2Proof.Machine
namespace Sys2Proof.Machine

/-! ### The selection of a claim (R62) -/

/-- In a list that stands in order, the first element that answers comes before every other that would. -/
theorem findSome?_eq_some_of_sorted {α β : Type} {r : α → α → Prop} {f : α → Option β} {l : List α} {b : β}
    (sorted : l.Pairwise r) (e : l.findSome? f = some b) :
    ∃ a ∈ l, f a = some b ∧ ∀ x ∈ l, ¬ r a x → x ≠ a → f x = none := by
  obtain ⟨before, a, after, rfl, found, unanswered⟩ := List.findSome?_eq_some_iff.mp e
  obtain ⟨-, later, -⟩ := List.pairwise_append.mp sorted
  obtain ⟨later, -⟩ := List.pairwise_cons.mp later
  refine ⟨a, by simp, found, fun x hx hr hne => ?_⟩
  rcases List.mem_append.mp hx with hx | hx
  · exact unanswered x hx
  · rcases List.mem_cons.mp hx with rfl | hx
    · exact absurd rfl hne
    · exact absurd (later x hx) hr

theorem mem_allClasses (k : ClassId) : k ∈ allClasses := by revert k; decide

theorem mem_prios (e : Prio) : e ∈ ([3, 2, 1, 0] : List Prio) := by revert e; decide

section Selection
variable {h : Hub} {p : PortId} {m : ClassSet} {i : FrameId}

/-- In a hub whose frames are filed an eligible frame stands in the queue of its class, which the mask names, and may be
claimed at its effective priority. -/
theorem Hub.eligible_iff (filed : h.Filed) : h.Eligible p m i ↔
    m.getLsbD (h.classOf i).val = true ∧ i ∈ (h.cls (h.classOf i)).queue ∧ h.eligibleAt p (h.effOf i) i = true := by
  rw [filed.queue]
  unfold Hub.Eligible Hub.classOf Hub.effOf Hub.eligibleAt Hub.queuedIn Context.inMask
  cases h.ctx i with
  | none => simp
  | some c => simp; tauto

/-- A frame stands in the queue of its class (R24). -/
theorem Hub.classOf_of_mem_queue (filed : h.Filed) {k : ClassId} (queued : i ∈ (h.cls k).queue) : h.classOf i = k := by
  rw [filed.queue] at queued
  unfold Hub.queuedIn at queued
  unfold Hub.classOf
  cases hc : h.ctx i with
  | none => simp [hc] at queued
  | some c => simp [hc] at queued; exact queued.2

theorem Hub.effOf_of_eligibleAt {e : Prio} (at_e : h.eligibleAt p e i = true) : h.effOf i = e := by
  unfold Hub.eligibleAt at at_e
  unfold Hub.effOf
  cases hc : h.ctx i with
  | none => simp [hc] at at_e
  | some c => simp [hc] at at_e; exact at_e.2

/-- The selection finds a frame where it looks for an eligible one: in its class, at its priority. -/
theorem Hub.find_of_eligible (filed : h.Filed) (el : h.Eligible p m i) :
    (if m.getLsbD (h.classOf i).val then (h.cls (h.classOf i)).queue.find? (h.eligibleAt p (h.effOf i))
      else none) ≠ none := by
  obtain ⟨masked, queued, at_i⟩ := (Hub.eligible_iff filed).mp el
  rw [if_pos masked]
  exact fun unfound => List.find?_eq_none.mp unfound i queued at_i

/-- The frame a claim selects is the best eligible one (R62). -/
theorem Hub.best_of_claimSelect (filed : h.Filed) (e : h.claimSelect p m = some i) : h.Best p m i := by
  obtain ⟨b, -, found, above⟩ := findSome?_eq_some_of_sorted (r := (· > ·)) (by decide) e
  obtain ⟨k, -, found, below⟩ := findSome?_eq_some_of_sorted (r := (· < ·)) (by decide) found
  split at found
  case isFalse => cases found
  next masked =>
  obtain ⟨at_b, ahead, behind, queue, passed⟩ := List.find?_eq_some_iff_append.mp found
  obtain rfl : h.classOf i = k := Hub.classOf_of_mem_queue filed (by simp [queue])
  obtain rfl : h.effOf i = b := Hub.effOf_of_eligibleAt at_b
  have highest : ∀ j, h.Eligible p m j → h.effOf j ≤ h.effOf i := fun j el => by
    by_contra higher
    have unfound := above _ (mem_prios (h.effOf j)) (lt_asymm (not_le.mp higher)) (not_le.mp higher).ne'
    exact Hub.find_of_eligible filed el (List.findSome?_eq_none_iff.mp unfound _ (mem_allClasses _))
  refine ⟨(Hub.eligible_iff filed).mpr ⟨masked, by simp [queue], at_b⟩, highest, fun j el same => ?_,
    ahead, behind, queue, fun j hj el => ?_⟩
  · by_contra lower
    have unfound := below _ (mem_allClasses (h.classOf j)) (lt_asymm (not_le.mp lower)) (not_le.mp lower).ne
    exact Hub.find_of_eligible filed el (same ▸ unfound)
  · obtain ⟨-, -, at_j⟩ := (Hub.eligible_iff filed).mp el
    refine lt_of_le_of_ne (highest j el) fun same => ?_
    rw [same] at at_j
    simpa [at_j] using passed j hj

/-- A claim that selects nothing finds no eligible frame. -/
theorem Hub.not_eligible_of_claimSelect (filed : h.Filed) (e : h.claimSelect p m = none) (j : FrameId) :
    ¬ h.Eligible p m j := fun el =>
  Hub.find_of_eligible filed el (List.findSome?_eq_none_iff.mp (List.findSome?_eq_none_iff.mp e _ (mem_prios _)) _
    (mem_allClasses _))

/-! ### CLAIM (R61 to R64) -/

/-- A claimed frame leaves its queue for the hold set, and nothing else changes (R28, R60). -/
theorem Hub.claimFrame_claims (h : Hub) (p : PortId) (i : FrameId) (c : Context) :
    h.Claims (h.claimFrame p i c) p i c where
  frame := by simp [Hub.claimFrame, Hub.enterHold]
  queue := by simp [Hub.claimFrame, Hub.enterHold]
  port := by simp [Hub.claimFrame, Hub.enterHold]
  rest :=
    { frames := fun j hj => by simp [Hub.claimFrame, Hub.enterHold, show ¬ j = i from hj]
      ports := fun q hq => by simp [Hub.claimFrame, Hub.enterHold, show ¬ q = p from hq]
      classes := fun k hk => by simp [Hub.claimFrame, Hub.enterHold, show ¬ k = c.control.cls from hk]
      blocks := fun _ _ => rfl
      words := fun _ _ => rfl
      waitList := fun _ => rfl
      isolation := fun _ => rfl }

/-- A claim finds no eligible frame, or takes the best one and answers its header record (R62, R63). -/
theorem Hub.claimBest_cases (filed : h.Filed) (p : PortId) (m : ClassSet) :
    ((∀ j, ¬ h.Eligible p m j) ∧ h.claimBest p m = none) ∨
      ∃ j c, h.Best p m j ∧ h.ctx j = some c ∧ h.claimBest p m = some (h.claimFrame p j c, h.claimAnswer p j c) := by
  unfold Hub.claimBest
  cases e : h.claimSelect p m with
  | none => exact .inl ⟨Hub.not_eligible_of_claimSelect filed e, rfl⟩
  | some j =>
    have best := Hub.best_of_claimSelect filed e
    obtain ⟨c, used, -⟩ := best.eligible
    have record : (h.claimFrame p j c).recordOf j c.eff = h.claimAnswer p j c := by
      simp [Hub.claimFrame, Hub.enterHold, Hub.recordOf, Hub.claimAnswer, Hub.effOf, used]
    exact .inr ⟨j, c, best, used, by simp [used, record]⟩

theorem Hub.claimWith_badValue : h.claimWith p 0 = (h, .bare .badValue) := if_pos rfl

theorem Hub.claimWith_holdFull (named : m ≠ 0) (full : 4 ≤ (h.port p).holdCount) :
    h.claimWith p m = (h, .bare .holdFull) := (if_neg named).trans (if_pos full)

theorem Hub.claimWith_empty (named : m ≠ 0) (room : ¬ 4 ≤ (h.port p).holdCount) (unfound : h.claimBest p m = none) :
    h.claimWith p m = (h, .bare .empty) :=
  ((if_neg named).trans (if_neg room)).trans (by rw [unfound])

theorem Hub.claimWith_taken {g : Hub} {ws : List Word} (named : m ≠ 0) (room : ¬ 4 ≤ (h.port p).holdCount)
    (best : h.claimBest p m = some (g, ws)) : h.claimWith p m = (g, .okWith ws) :=
  ((if_neg named).trans (if_neg room)).trans (by rw [best])

end Selection

/-- The word of a CLAIM or SUBSCRIBE gives back its class mask (R180). -/
theorem readMask_maskWord (m : ClassSet) : readMask [maskWord m 0] = some m := by
  have clear : clearIn (maskWord m 0) 0xFFFFFF00#32 = true := by
    rw [clearIn, maskWord, show (0xFFFFFF00#32) = 0xFFFF#16 ++ 0xFF#8 ++ 0#8 from rfl, BitVec.and_append,
      BitVec.and_append]
    simp only [BitVec.zero_and, BitVec.and_zero]
    rfl
  have mask : bits (maskWord m 0) 0 8 = m := by
    rw [bits, maskWord, BitVec.extractLsb'_append_eq_of_add_le (by decide), BitVec.extractLsb'_eq_self]
  rw [readMask, clear, mask, if_pos rfl]

theorem bodyOf_claim {s : State} {p : PortId} (on : s.hub.online p = true) (tag : Tag) (m : ClassSet) :
    bodyOf s.hub (.claim p tag [maskWord m 0]) = s.hub.claimWith p m := by
  show s.hub.session .claim p (s.hub.form (readMask [maskWord m 0]) (s.hub.claimWith p)) = _
  rw [Hub.session_online on, readMask_maskWord]
  rfl

end Sys2Proof.Machine

/-- Settles O18: past its two refusals a CLAIM is the selection of R62, which finds nothing or the best eligible
frame. -/
theorem claimTakesTheBestEligibleFrame : Obligations.ClaimTakesTheBestEligibleFrame := by
  intro s p tag m filed on i admitted
  have hb : bodyOf s.hub i = s.hub.claimWith p m := bodyOf_claim on tag m
  split_ifs with unnamed full
  · exact refused_body rfl admitted (by rw [hb, unnamed, Hub.claimWith_badValue])
  · exact refused_body rfl admitted (hb.trans (Hub.claimWith_holdFull unnamed full))
  · rcases Hub.claimBest_cases filed p m with ⟨ineligible, unfound⟩ | ⟨j, c, best, used, taken⟩
    · exact .inl ⟨ineligible, refused_body rfl admitted (hb.trans (Hub.claimWith_empty unnamed full unfound))⟩
    · rw [Hub.claimWith_taken unnamed full taken] at hb
      exact .inr ⟨j, c, best, used, takes_body rfl admitted (by rw [hb])
        (by rw [hb]; exact s.hub.claimFrame_claims p j c)⟩
end

section
/-!
What a port does with a frame it keeps: READ_IMAGE (R68 to R70), EDIT (R73, R74) and RETURN (R75, R76, R90), from the
words that carry them (R180) to what they leave.
-/
open Sys2Proof Sys2Proof.Machine
namespace Sys2Proof.Machine

/-! ### READ_IMAGE (R68 to R70) -/

/-- The handle word of a READ_IMAGE or INSPECT gives back its offset and its count. -/
theorem readRange_handleWord (h : Hub) (j : FrameId) {off n : Nat} (hoff : off < 64) (hn : n < 32) :
    readRange (h.handleWord j (rangeHalf off n)) [] = some (off, n) := by
  have unused : rangeHalf off n &&& 0xF800#16 = 0#16 := by
    rw [show (0xF800#16) = 0x1F#5 ++ 0#5 ++ 0#6 from rfl, rangeHalf, BitVec.and_append, BitVec.and_append]
    simp
  have clear : clearIn (h.handleWord j (rangeHalf off n)) 0xF8000000#32 = true :=
    (clearIn_append (rangeHalf off n) (h.handle j) 0xF800#16).trans (by rw [unused]; rfl)
  have offset : (bits (h.handleWord j (rangeHalf off n)) 16 6).toNat = off := by
    rw [bits, Hub.handleWord, rangeHalf, BitVec.extractLsb'_append_eq_of_le (by decide),
      BitVec.extractLsb'_append_eq_of_add_le (by decide), BitVec.extractLsb'_eq_self, toNat_ofNat_of_lt hoff]
  have count : (bits (h.handleWord j (rangeHalf off n)) 22 5).toNat = n := by
    rw [bits, Hub.handleWord, rangeHalf, BitVec.extractLsb'_append_eq_of_le (by decide),
      BitVec.extractLsb'_append_eq_of_le (by decide), BitVec.extractLsb'_append_eq_of_add_le (by decide),
      BitVec.extractLsb'_eq_self, toNat_ofNat_of_lt hn]
  simp only [readRange, clear, offset, count, List.isEmpty_nil, Bool.and_self, if_true]

theorem bodyOf_readImage {s : State} {p : PortId} {tag : Tag} {j : FrameId} {c : Context} {off n : Nat}
    (on : s.hub.online p = true) (used : s.hub.ctx j = some c) (kept : c.place.isKeptOf p = true) (hoff : off < 64)
    (hn : n < 32) : bodyOf s.hub (.readImage p tag [s.hub.handleWord j (rangeHalf off n)]) =
      s.hub.readImageWith j c (off, n) := by
  have hb := bodyOf_handled (i := .readImage p tag [s.hub.handleWord j (rangeHalf off n)]) on used kept rfl
  rwa [readRange_handleWord _ _ hoff hn] at hb

/-- A requested word stands in a damaged block. -/
theorem Hub.damagedIn_iff (h : Hub) (c : Context) (off n : Nat) : h.damagedIn c off n = true ↔
    ∃ k b, off ≤ k ∧ k < off + n ∧ c.blocks[k / 8]? = some b ∧ (h.block b).damaged = true := by
  have at_block : ∀ k, h.damagedAt c k = true ↔ ∃ b, c.blocks[k]? = some b ∧ (h.block b).damaged = true := fun k => by
    unfold Hub.damagedAt
    cases c.blocks[k]? <;> simp
  simp only [Hub.damagedIn, List.any_eq_true, List.mem_range, at_block]
  constructor
  · rintro ⟨k, hk, b, hb⟩
    exact ⟨off + k, b, by omega, by omega, hb⟩
  · rintro ⟨k, b, first, last, hb⟩
    exact ⟨k - off, by omega, b, by rwa [Nat.add_sub_cancel' first]⟩

/-- Every word of an image has a place (R16). -/
theorem Context.address_isSome {c : Context} (legal : c.BlocksLegal) {k : Nat} (hk : k < c.len) :
    ∃ a, c.address k = some a := by
  have listed : k / 8 < c.blocks.length := by rw [legal.2, blocksFor]; omega
  exact ⟨_, Context.address_eq_some.mpr ⟨_, List.getElem?_eq_getElem listed, rfl⟩⟩

/-- The words read are the stored words of their places, in image order. -/
theorem Hub.readWords_read {h : Hub} {c : Context} (legal : c.BlocksLegal) {off n : Nat} (fits : off + n ≤ c.len)
    {k : Nat} {v : Word} (hk : (h.readWords c off n)[k]? = some v) :
    ∃ a, c.address (off + k) = some a ∧ v = h.memory.read a := by
  obtain ⟨listed, rfl⟩ := List.getElem?_eq_some_iff.mp hk
  have within : k < n := by simpa [Hub.readWords] using listed
  obtain ⟨a, ha⟩ := Context.address_isSome legal (k := off + k) (by omega)
  exact ⟨a, ha, by simp [Hub.readWords, Hub.readWord, ha]⟩

section ReadImage
variable {h : Hub} {j : FrameId} {c : Context} {off n : Nat}

theorem Hub.readImageWith_badValue (bad : n < 1 ∨ 16 < n ∨ c.len < off + n) :
    h.readImageWith j c (off, n) = (h, .bare .badValue) := if_pos bad

theorem Hub.readImageWith_inRange (positive : 1 ≤ n) (few : n ≤ 16) (fits : off + n ≤ c.len) :
    h.readImageWith j c (off, n) = if h.damagedIn c off n then
      (h.isolate j c .memoryError, { result := .memoryError, payload := [halfWord (h.handle j)] })
    else (h, .okWith (h.readWords c off n)) :=
  if_neg (by simp only [Config.moveMax]; omega)

end ReadImage

/-! ### EDIT (R73, R74) -/

/-- The word of a field change gives back its selector and its value (R180). -/
theorem readChange_changeWord (f : FieldChange) : readChange (changeWord f) = some f := by
  have clear : clearIn (changeWord f) 0xFFFFF0F0#32 = true := by
    rw [clearIn, changeWord, show (0xFFFFF0F0#32) = 0xFFFFF#20 ++ 0#4 ++ 0xF#4 ++ 0#4 from rfl]
    iterate 3 rw [BitVec.and_append]
    simp only [BitVec.zero_and, BitVec.and_zero]
    rfl
  have selector : bits (changeWord f) 0 4 = f.selector := by
    rw [bits, changeWord, BitVec.extractLsb'_append_eq_of_add_le (by decide), BitVec.extractLsb'_eq_self]
  have value : bits (changeWord f) 8 4 = f.value := by
    rw [bits, changeWord, BitVec.extractLsb'_append_eq_of_le (by decide),
      BitVec.extractLsb'_append_eq_of_le (by decide), BitVec.extractLsb'_append_eq_of_add_le (by decide),
      BitVec.extractLsb'_eq_self]
  rw [readChange, clear, selector, value, if_pos rfl]

theorem bodyOf_edit {s : State} {p : PortId} {tag : Tag} {j : FrameId} {c : Context} (on : s.hub.online p = true)
    (used : s.hub.ctx j = some c) (kept : c.place.isKeptOf p = true) (f : FieldChange) :
    bodyOf s.hub (.edit p tag [s.hub.handleWord j 0, changeWord f]) = s.hub.editWith j c f := by
  have clear : clearIn (s.hub.handleWord j 0) 0xFFFF0000#32 = true := clearIn_append 0#16 (s.hub.handle j) 0xFFFF#16
  have hb := bodyOf_handled (i := .edit p tag [s.hub.handleWord j 0, changeWord f]) on used kept rfl
  rwa [readEdit, clear, if_pos rfl, readChange_changeWord] at hb

/-- A frame that a port holds or stacks has the effective priority of its base (R7). -/
theorem Context.eff_of_isKeptOf {c : Context} {p : PortId} (kept : c.place.isKeptOf p = true) :
    c.eff = c.control.base := by
  unfold Context.eff
  cases hp : c.place with
  | queued e w => rw [hp] at kept; cases kept
  | _ => rfl

section Edit
variable {h : Hub} {p : PortId} {j : FrameId} {c : Context} {f : FieldChange}

theorem Hub.editWith_readOnly (sel : 4 ≤ f.selector.toNat ∧ f.selector.toNat ≤ 9) :
    h.editWith j c f = (h, .bare .readOnly) := if_pos (decide_eq_true sel)

theorem Hub.editWith_badValue (sel : f.selector.toNat = 0 ∨ 10 ≤ f.selector.toNat) :
    h.editWith j c f = (h, .bare .badValue) := by
  have writable : f.readOnly = false := decide_eq_false (by omega)
  have unnamed : f.noField = true := decide_eq_true sel
  simp [Hub.editWith, writable, unnamed]

/-- The header record of a frame after an EDIT (R67, R74). -/
theorem Hub.record_edited {k : Control} (kept : c.place.isKeptOf p = true) :
    (h.putCtx j { c with control := k }).record j = headerRecord (h.handle j) { c with control := k } k.base := by
  have eff : Context.eff { c with control := k } = k.base := Context.eff_of_isKeptOf (c := { c with control := k }) kept
  simp only [Hub.record, Hub.recordOf, Hub.effOf, Hub.ctx_putCtx, Hub.handle_putCtx, if_true, eff]

/-- The selectors of the three fields are neither read-only nor without a field. -/
theorem FieldChange.namesField (sel : 1 ≤ f.selector.toNat ∧ f.selector.toNat ≤ 3) :
    f.readOnly = false ∧ f.noField = false := by
  simp only [FieldChange.readOnly, FieldChange.noField, decide_eq_false_iff_not]
  omega

theorem FieldChange.apply_eq_setIn (f : FieldChange) (r : RawControl) : f.apply r = FieldChange.setIn r f := rfl

theorem Hub.editWith_invalid (sel : 1 ≤ f.selector.toNat ∧ f.selector.toNat ≤ 3)
    (invalid : ¬ (FieldChange.setIn c.control.raw f).Valid (h.cls c.control.cls).enabled) :
    h.editWith j c f = (h, .bare .invalid) := by
  obtain ⟨writable, named⟩ := FieldChange.namesField sel
  simp [Hub.editWith, writable, named, FieldChange.apply_eq_setIn, RawControl.check_of_not_valid invalid]

/-- An EDIT that is taken replaces the control record, and answers the header record as it then stands (R74). -/
theorem Hub.editWith_taken (kept : c.place.isKeptOf p = true)
    (sel : 1 ≤ f.selector.toNat ∧ f.selector.toNat ≤ 3) {k : Control}
    (passes : (FieldChange.setIn c.control.raw f).check (h.cls c.control.cls).enabled = some k) :
    h.editWith j c f = (h.putCtx j { c with control := k },
      .okWith (headerRecord (h.handle j) { c with control := k } k.base)) := by
  obtain ⟨writable, named⟩ := FieldChange.namesField sel
  simp [Hub.editWith, writable, named, FieldChange.apply_eq_setIn, passes, Hub.record_edited kept]

theorem Hub.putCtx_sameBeyond (h : Hub) (j : FrameId) (d : Context) :
    h.SameBeyond (h.putCtx j d) { frames := (· = j) } where
  frames _ hi := (Hub.putCtx_frame ..).trans (if_neg hi)
  ports _ _ := rfl
  classes _ _ := rfl
  blocks _ _ := rfl
  words _ _ := rfl
  waitList _ := rfl
  isolation _ := rfl

end Edit

/-! ### RETURN (R75, R76, R90) -/

theorem bodyOf_returnFrame {s : State} {p : PortId} {tag : Tag} {j : FrameId} {c : Context} {m : Bool}
    (on : s.hub.online p = true) (used : s.hub.ctx j = some c) (place : c.place = .held p m) :
    bodyOf s.hub (.returnFrame p tag [s.hub.handleWord j 0]) = s.hub.returnWith p j c := by
  have hb := bodyOf_handled (i := .returnFrame p tag [s.hub.handleWord j 0]) on used (Place.held_isHeldOf place) rfl
  rwa [readHandleOnly_handleWord] at hb

section Return
variable {h g : Hub} {p q : PortId} {j : FrameId} {c : Context}

theorem Hub.returnWith_modified (place : c.place = .held p true) : h.returnWith p j c = (h, .bare .modified) := by
  rw [Hub.returnWith, place]
  rfl

/-- A RETURN of a frame that was not written makes it available, passing over the returning port (R75, R76). -/
theorem Hub.returnWith_clean (place : c.place = .held p false) : h.returnWith p j c =
    (((h.leaveOwner j c).makeAvailable j c .returned (some p)).1.returnEndsWait p c
        ((h.leaveOwner j c).makeAvailable j c .returned (some p)).2,
      .okWith [outcomeWord (h.handle j) ((h.leaveOwner j c).makeAvailable j c .returned (some p)).2]) := by
  rw [Hub.returnWith, Hub.leaveHold_eq_leaveOwner (Place.held_isHeldOf place), place]
  rfl

/-- A claim that is passed over does not take the frame (R87). -/
theorem Hub.ne_of_claimTakes (takes : h.claimTakes c (some p) q = true) : q ≠ p := by
  rintro rfl
  unfold Hub.claimTakes at takes
  split at takes
  · simp at takes
  · cases takes

/-- An insertion that ends no wait leaves every claim, so each takes the same frames (R25). -/
theorem Hub.Inserts.claimTakes {cause : Cause} {passed : Option PortId} (x : h.Inserts g j c cause passed none)
    (d : Context) (p : PortId) : g.claimTakes d none p = h.claimTakes d none p := by
  have claim : (g.port p).claim = (h.port p).claim := by
    rw [x.ports]
    exact (Port.told_rest ..).2.2.1.trans (h.portWithout_rest j c p).1
  simp only [Hub.claimTakes, claim]

/-- The wait of the returning port ends with the insertion of its frame (R90). -/
theorem Hub.Inserts.endWait {cause : Cause} {passed : Option PortId} (x : h.Inserts g j c cause passed none)
    (p : PortId) : h.Inserts (g.endWait p .expired) j c cause passed (some p) where
  untaken := x.untaken
  frame := x.frame
  queue := x.queue
  ports q := by
    have told := x.ports q
    rw [Hub.endWait_port]
    by_cases e : q = p
    · subst e; simp [told]
    · simp [told, e, Ne.symm e]
  waitList := congrArg (List.erase · p) x.waitList

theorem Hub.SameBeyond.endWait {x : Reach} (same : h.SameBeyond g x) (ports : ∀ q, x.ports q) (waitList : x.waitList)
    (r : ClaimRec) : h.SameBeyond (g.endWait p r) x where
  frames := same.frames
  ports q hq := absurd (ports q) hq
  classes := same.classes
  blocks := same.blocks
  words := same.words
  waitList hw := absurd waitList hw
  isolation := same.isolation

/-- A queued frame has been returned: a claim of the returning port that it matches ends as EXPIRED (R90). -/
theorem Hub.Inserts.returnEndsWait {x : Reach} (inserts : h.Inserts g j c .returned (some p) none)
    (same : h.SameBeyond g x) (ports : ∀ q, x.ports q) (waitList : x.waitList) :
    h.Inserts (g.returnEndsWait p c .queued) j c .returned (some p)
        (if h.claimTakes c none p = true then some p else none) ∧
      h.SameBeyond (g.returnEndsWait p c .queued) x := by
  simp only [Hub.returnEndsWait, true_and, inserts.claimTakes]
  split
  · exact ⟨inserts.endWait p, same.endWait ports waitList _⟩
  · exact ⟨inserts, same⟩

end Return

end Sys2Proof.Machine

/-- Settles O19: a READ_IMAGE within its range goes by the damage of the blocks its words stand in. -/
theorem readImageReadsOrIsolates : Obligations.ReadImageReadsOrIsolates := by
  intro s p tag j c off n on used kept legal hoff hn i damaged admitted
  have hb : bodyOf s.hub i = s.hub.readImageWith j c (off, n) := bodyOf_readImage on used kept hoff hn
  refine ⟨fun bad => refused_body rfl admitted (hb.trans (Hub.readImageWith_badValue bad)),
    fun positive few fits => ?_⟩
  rw [Hub.readImageWith_inRange positive few fits] at hb
  refine ⟨fun struck => ?_, fun sound => ?_⟩
  · rw [if_pos ((s.hub.damagedIn_iff c off n).mpr struck)] at hb
    exact takes_body rfl admitted (by rw [hb]) (by rw [hb]; exact s.hub.isolate_isolates ..)
  · rw [if_neg (mt (s.hub.damagedIn_iff c off n).mp sound)] at hb
    exact ⟨_, by simp [Hub.readWords], fun _ _ hk => Hub.readWords_read legal fits hk,
      takes_body rfl admitted (by rw [hb]) (by rw [hb])⟩

/-- Settles O20: the refusals go by the selector and by the validity of the changed record (R15), and an EDIT that is
taken replaces the control record of its frame. -/
theorem editSetsOneControlField : Obligations.EditSetsOneControlField := by
  intro s p tag j c f on used kept i changed admitted
  have hb : bodyOf s.hub i = s.hub.editWith j c f := bodyOf_edit on used kept f
  refine ⟨fun sel => refused_body rfl admitted (hb.trans (Hub.editWith_readOnly sel)),
    fun sel => refused_body rfl admitted (hb.trans (Hub.editWith_badValue sel)), fun sel => ?_⟩
  refine ⟨fun invalid => refused_body rfl admitted (hb.trans (Hub.editWith_invalid sel invalid)), fun valid => ?_⟩
  obtain ⟨k, passes⟩ := RawControl.check_of_valid valid
  rw [Hub.editWith_taken kept sel passes] at hb
  exact ⟨k, (RawControl.valid_of_check passes).2, takes_body rfl admitted (by rw [hb])
    (by rw [hb]; exact ⟨(Hub.putCtx_frame ..).trans (if_pos rfl), s.hub.putCtx_sameBeyond ..⟩)⟩

/-- Settles O21: a frame that was not written is made available, passing over the returning port, and only an insertion
ends the wait of that port. -/
theorem returnGivesTheFrameBack : Obligations.ReturnGivesTheFrameBack := by
  intro s p tag j c m banded on used place i within admitted
  have hb : bodyOf s.hub i = s.hub.returnWith p j c := bodyOf_returnFrame on used place
  cases m with
  | true => exact refused_body rfl admitted (hb.trans (Hub.returnWith_modified place))
  | false =>
    rw [Hub.returnWith_clean place] at hb
    obtain ⟨outcome, -, same⟩ := s.hub.makeAvailable_leaveOwner j c .returned (some p) banded
    rcases outcome with ⟨q, granted, grants⟩ | ⟨queued, inserts⟩
    · rw [granted] at hb
      exact .inl ⟨q, Hub.ne_of_claimTakes grants.taken, takes_body rfl admitted (by rw [hb])
        (by rw [hb]; exact ⟨grants, same⟩)⟩
    · rw [queued] at hb
      exact .inr (takes_body rfl admitted (by rw [hb])
        (by rw [hb]; exact inserts.returnEndsWait same (fun _ => trivial) trivial))
end

section
/-!
A request leaves the frames of other ports alone (R54, R80, R102): each operation changes the frames it names, and a
request names none that another port fills, holds or stacks.
-/
open Sys2Proof Sys2Proof.Machine
namespace Sys2Proof.Machine

/-! ### Frames of other ports -/

/-- A port other than `p` fills, holds or stacks the frame. -/
def Hub.Foreign (h : Hub) (p : PortId) (j : FrameId) : Prop :=
  ∃ c q, h.ctx j = some c ∧ c.place.owner = some q ∧ q ≠ p

theorem Hub.foreign_of_placed {h : Hub} {p q : PortId} {j : FrameId} (other : p ≠ q)
    (placed : h.placed (fun x => x.owner == some q) j = true) : h.Foreign p j := by
  obtain ⟨c, used, owned⟩ := (Option.any_eq_true ..).mp placed
  exact ⟨c, q, used, by simpa using owned, other.symm⟩

/-- The port whose collection this is; a queue and the Isolation List are no port's. -/
def Shelf.owner : Shelf → Option PortId
  | .queue _ => none
  | .hold p => some p
  | .filling p => some p
  | .stack p => some p
  | .isolation => none

theorem Context.shelf_owner (c : Context) : c.shelf.owner = c.place.owner := by
  unfold Context.shelf
  cases c.place <;> rfl

section Foreign
variable {h g : Hub} {p : PortId} {i j : FrameId} {c : Context}

/-- A frame of the port, or of no port, is no frame of another port. -/
theorem Hub.Foreign.ne (foreign : h.Foreign p j) (used : h.ctx i = some c)
    (near : c.place.owner = some p ∨ c.place.owner = none) : j ≠ i := by
  rintro rfl
  obtain ⟨d, q, hd, owned, other⟩ := foreign
  obtain rfl : c = d := Option.some.inj (used.symm.trans hd)
  rw [owned] at near
  simp [other] at near

theorem Hub.Foreign.ne_free (foreign : h.Foreign p j) (unused : h.ctx i = none) : j ≠ i := by
  rintro rfl
  obtain ⟨d, q, hd, -⟩ := foreign
  rw [unused] at hd
  cases hd

/-- In a hub whose frames are filed, a frame of another port stands in no collection of the port, and in none that is no
port's (R2). -/
theorem Hub.Foreign.not_mem (foreign : h.Foreign p j) (filed : h.Filed) {x : Shelf}
    (near : x.owner = some p ∨ x.owner = none) : j ∉ h.shelf x := fun listed => by
  obtain ⟨d, used, rfl⟩ := Option.map_eq_some_iff.mp ((h.filed_iff.mp filed).mem_nil.mp listed)
  exact foreign.ne used (d.shelf_owner ▸ near) rfl

/-! ### What the operations leave: every frame they do not name -/

theorem Hub.makeAvailable_frame (hj : j ≠ i) (cause : Cause) (passed : Option PortId) :
    (h.makeAvailable i c cause passed).1.frame j = h.frame j := by
  unfold Hub.makeAvailable
  split
  · exact ((h.grant_parts ..).1 j).trans (if_neg hj)
  · simp only [Hub.enqueue]
    split <;> simp [hj]

theorem Hub.isolate_frame (hj : j ≠ i) (r : IsoReason) : (h.isolate i c r).frame j = h.frame j :=
  (h.isolate_isolates i c r).2.frames j hj

theorem Hub.settleChecked_frame (hj : j ≠ i) (cause : Cause) : (h.settleChecked i c cause).1.frame j = h.frame j := by
  unfold Hub.settleChecked
  split
  · exact Hub.isolate_frame hj _
  · exact (Hub.makeAvailable_frame hj ..).trans ((h.leaveOwner_rest i c).1 j)

theorem Hub.stackFrame_frame (hj : j ≠ i) : (h.stackFrame p i).frame j = h.frame j := by
  unfold Hub.stackFrame
  split
  · exact (Hub.putCtx_frame ..).trans (if_neg hj)
  · rfl

theorem Hub.foldl_stackFrame_frame {l : List FrameId} (hj : j ∉ l) :
    (l.foldl (fun g i => g.stackFrame p i) h).frame j = h.frame j := by
  induction l generalizing h with
  | nil => rfl
  | cons i l ih =>
    obtain ⟨hi, hl⟩ := not_or.mp (mt List.mem_cons.mpr hj)
    exact (ih hl).trans (Hub.stackFrame_frame hi)

theorem Hub.enterHold_frame (hj : j ≠ i) : (h.enterHold i c p).frame j = h.frame j :=
  (Hub.putCtx_frame ..).trans (if_neg hj)

theorem Hub.resumeFrame_frame (hj : j ≠ i) : (h.resumeFrame p i).frame j = h.frame j := by
  unfold Hub.resumeFrame
  split
  · exact Hub.enterHold_frame hj
  · rfl

theorem EndTally.deal_frame {t : EndTally} (hj : j ≠ i) : (t.deal p i).hub.frame j = t.hub.frame j := by
  unfold EndTally.deal
  split
  · rfl
  · split
    · exact Hub.enterHold_frame hj
    · exact Hub.makeAvailable_frame hj ..

theorem EndTally.foldl_deal_frame {t : EndTally} {l : List FrameId} (hj : j ∉ l) :
    (l.foldl (fun t i => EndTally.deal t p i) t).hub.frame j = t.hub.frame j := by
  induction l generalizing t with
  | nil => rfl
  | cons i l ih =>
    obtain ⟨hi, hl⟩ := not_or.mp (mt List.mem_cons.mpr hj)
    exact (ih hl).trans (EndTally.deal_frame hi)

theorem Hub.restartWaits_frame {l : List FrameId} (hj : j ∉ l) : (h.restartWaits l).frame j = h.frame j := by
  induction l generalizing h with
  | nil => rfl
  | cons i l ih =>
    obtain ⟨hi, hl⟩ := not_or.mp (mt List.mem_cons.mpr hj)
    unfold Hub.restartWaits
    split
    · split
      · exact (ih hl).trans ((Hub.putCtx_frame ..).trans (if_neg hi))
      · exact ih hl
    · exact ih hl

/-- A claim changes no frame but the queued one it takes (R63). -/
theorem Hub.claimBest_frame {m : ClassSet} {ws : List Word} (idle : ∀ k, j ∉ (h.cls k).queue)
    (e : h.claimBest p m = some (g, ws)) : g.frame j = h.frame j := by
  unfold Hub.claimBest at e
  split at e
  · cases e
  · next i hi =>
    obtain ⟨k, queued, c, used, -⟩ := Hub.claimSelect_queued hi
    rw [used] at e
    cases e
    exact (h.claimFrame_claims p i c).rest.frames j fun same => idle k (same ▸ queued)

/-! ### What the requests leave -/

theorem Hub.endSession_frame (h : Hub) (p : PortId) (j : FrameId) : (h.endSession p).frame j = h.frame j := by
  show (h.cancelPending p).frame j = _
  unfold Hub.cancelPending
  split
  · exact (h.post_rest ..).1 j
  · rfl

theorem Hub.parkOpenWith_frame (foreign : h.Foreign p j) (on : h.online p = true) (a : ParkOpenArgs) :
    (h.parkOpenWith p a).1.frame j = h.frame j := by
  rcases Hub.parkOpenWith_opens on a with same | opens
  · rw [same]
  · exact (opens.frame j).resolve_right fun unused => foreign.ne_free unused.1 rfl

theorem Hub.storeWords_putCtx_frame (hj : j ≠ i) (off : Nat) (ws : List Word) (d : Context) :
    ((h.storeWords c off ws).putCtx i d).frame j = h.frame j :=
  ((Hub.putCtx_frame ..).trans (if_neg hj)).trans ((h.storeWords_rest c off ws).1 j)

theorem Hub.parkWriteWith_frame (hj : j ≠ i) (a : Nat × List Word) :
    (h.parkWriteWith p i c a).1.frame j = h.frame j := by
  unfold Hub.parkWriteWith
  split
  · rfl
  · split
    · rfl
    · exact Hub.storeWords_putCtx_frame hj ..

theorem Hub.writeImageWith_frame (hj : j ≠ i) (a : Nat × List Word) :
    (h.writeImageWith p i c a).1.frame j = h.frame j := by
  unfold Hub.writeImageWith
  split
  · rfl
  · exact Hub.storeWords_putCtx_frame hj ..

theorem Hub.isolationWriteWith_frame (h : Hub) (c : Context) (a : Nat × List Word) (j : FrameId) :
    (h.isolationWriteWith c a).1.frame j = h.frame j := by
  unfold Hub.isolationWriteWith
  split
  · rfl
  · exact (h.storeWords_rest ..).1 j

theorem Hub.parkCloseWith_frame (hj : j ≠ i) : (h.parkCloseWith i c).1.frame j = h.frame j := by
  unfold Hub.parkCloseWith
  split
  · rfl
  · exact Hub.settleChecked_frame hj _

theorem Hub.readImageWith_frame (hj : j ≠ i) (a : Nat × Nat) : (h.readImageWith i c a).1.frame j = h.frame j := by
  unfold Hub.readImageWith
  split
  · rfl
  · split
    · exact Hub.isolate_frame hj _
    · rfl

theorem Hub.editWith_frame (hj : j ≠ i) (f : FieldChange) : (h.editWith i c f).1.frame j = h.frame j := by
  unfold Hub.editWith
  split
  · rfl
  · split
    · rfl
    · split
      · rfl
      · exact (Hub.putCtx_frame ..).trans (if_neg hj)

theorem Hub.returnWith_frame (hj : j ≠ i) : (h.returnWith p i c).1.frame j = h.frame j := by
  have ended : ∀ (g : Hub) o, (g.returnEndsWait p c o).frame j = g.frame j := fun g o => by
    unfold Hub.returnEndsWait
    split <;> rfl
  unfold Hub.returnWith
  split
  · rfl
  · exact (ended ..).trans (Hub.makeAvailable_frame (h := h.leaveHold p i) hj ..)

theorem Hub.suspendWith_frame (hj : j ≠ i) : (h.suspendWith p i).1.frame j = h.frame j := by
  unfold Hub.suspendWith
  split
  · rfl
  · exact Hub.stackFrame_frame (h := h.leaveHold p i) hj

theorem Hub.inspectWith_frame (hj : j ≠ i) (a : Nat × Nat) : (h.inspectWith i c a).1.frame j = h.frame j := by
  unfold Hub.inspectWith
  split
  · rfl
  · split
    · rfl
    · split
      · exact (Hub.putCtx_frame ..).trans (if_neg hj)
      · rfl

theorem Hub.repairWith_frame (hj : j ≠ i) (a : RepairArgs) : (h.repairWith i c a).1.frame j = h.frame j := by
  unfold Hub.repairWith Hub.repairChecked
  split
  · rfl
  · split
    · rfl
    · split
      · rfl
      · split
        · exact (Hub.putCtx_frame ..).trans (if_neg hj)
        · exact Hub.makeAvailable_frame hj ..

theorem Hub.claimWith_frame (idle : ∀ k, j ∉ (h.cls k).queue) (m : ClassSet) :
    (h.claimWith p m).1.frame j = h.frame j := by
  unfold Hub.claimWith
  split
  · rfl
  · split
    · rfl
    · split
      · rfl
      · next best => exact Hub.claimBest_frame idle best

theorem Hub.claimWaitWith_frame (idle : ∀ k, j ∉ (h.cls k).queue) (a : ClassSet × Nat) :
    (h.claimWaitWith p a).1.frame j = h.frame j := by
  unfold Hub.claimWaitWith
  split
  · rfl
  · split
    · rfl
    · split
      · rfl
      · split
        · next best => exact Hub.claimBest_frame idle best
        · rfl

theorem Hub.claimResultNow_frame (h : Hub) (p : PortId) (j : FrameId) :
    (h.claimResultNow p).1.frame j = h.frame j := by
  unfold Hub.claimResultNow
  split
  · rfl
  · split <;> rfl
  · rfl
  · rfl

theorem Hub.claimCancelNow_frame (h : Hub) (p : PortId) (j : FrameId) :
    (h.claimCancelNow p).1.frame j = h.frame j := by
  unfold Hub.claimCancelNow
  split <;> rfl

theorem Hub.resumeTopNow_frame (free : j ∉ (h.port p).stack.map StackEntry.frame) :
    (h.resumeTopNow p).1.frame j = h.frame j := by
  unfold Hub.resumeTopNow
  split
  · rfl
  · next e rest top =>
    have hj : j ≠ e.frame := fun same => free (by rw [top, same]; exact List.mem_cons_self)
    split
    · rfl
    · split
      · rfl
      · exact Hub.resumeFrame_frame hj

theorem Hub.preemptWith_frame (h : Hub) (p : PortId) (a : PortId × ClassId) (j : FrameId) :
    (h.preemptWith p a).1.frame j = h.frame j := by
  unfold Hub.preemptWith Hub.postUrgent
  split
  · rfl
  · split
    · rfl
    · split
      · rfl
      · split <;> rfl

/-- A taking stacks the frames the port holds, and leaves every queue (R116). -/
theorem Hub.beginService_frame (free : j ∉ (h.port p).hold) (n : Urgent) :
    (h.beginService p n).frame j = h.frame j :=
  ((Hub.post_rest ..).1 j).trans (Hub.foldl_stackFrame_frame free)

theorem Hub.beginService_cls (h : Hub) (p : PortId) (n : Urgent) (k : ClassId) :
    (h.beginService p n).cls k = h.cls k :=
  ((Hub.post_rest ..).2.2.1 k).trans ((h.foldl_stackFrame_rest p _).2.1 k)

theorem Hub.takePreemptNow_frame (free : j ∉ (h.port p).hold) (idle : ∀ k, j ∉ (h.cls k).queue) :
    (h.takePreemptNow p).1.frame j = h.frame j := by
  unfold Hub.takePreemptNow
  split
  · next n _ _ =>
    split
    · rfl
    · dsimp only
      split
      · next best =>
        exact (Hub.claimBest_frame (fun k => by rw [Hub.beginService_cls]; exact idle k) best).trans
          (Hub.beginService_frame free n)
      · exact Hub.beginService_frame free n
  · rfl

/-- The frames of the group are frames of the stack (R97). -/
theorem Port.group_subset (x : Port) : x.group ⊆ x.stack.map StackEntry.frame := fun _ hj =>
  (List.filter_sublist.map StackEntry.frame).subset (List.mem_reverse.mp hj)

theorem Hub.endService_frame (free : j ∉ (h.port p).stack.map StackEntry.frame) (v : Urgent) :
    (h.endService p v).hub.frame j = h.frame j := by
  rw [Hub.endService_hub]
  exact ((Hub.post_rest ..).1 j).trans (EndTally.foldl_deal_frame fun hj => free (Port.group_subset _ hj))

theorem Hub.endPreemptNow_frame (free : j ∉ (h.port p).stack.map StackEntry.frame) :
    (h.endPreemptNow p).1.frame j = h.frame j := by
  have ended : ∀ v, (h.endPreemptWith p v).1.frame j = h.frame j := fun v => by
    unfold Hub.endPreemptWith
    dsimp only
    split
    · rfl
    · split
      · rfl
      · split
        · rfl
        · exact Hub.endService_frame free v
  unfold Hub.endPreemptNow
  split
  · exact ended _
  · exact ended _
  · rfl

theorem Hub.noticeReadWith_frame (h : Hub) (p : PortId) (n : Nat) (j : FrameId) :
    (h.noticeReadWith p n).1.frame j = h.frame j := by
  unfold Hub.noticeReadWith
  split <;> rfl

theorem Hub.joinWith_frame (h : Hub) (p : PortId) (t : Settings) (j : FrameId) :
    (h.joinWith p t).1.frame j = h.frame j := by
  unfold Hub.joinWith
  split
  · rfl
  · split <;> rfl

theorem Hub.classSetWith_frame (idle : ∀ k, j ∉ (h.cls k).queue) (a : ClassSetArgs) :
    (h.classSetWith a).1.frame j = h.frame j := by
  unfold Hub.classSetWith Hub.setClassRecord
  split
  · rfl
  · split
    · rfl
    · split
      · rfl
      · dsimp only
        split
        · rfl
        · exact Hub.restartWaits_frame (idle a.cls)

/-! ### Every request leaves the frames of other ports -/

/-- A request that names no frame leaves what its body leaves. -/
theorem Hub.session_form_frame {k : ReqKind} {α : Type} {args : Option α} {body : α → Hub × Reply}
    (leaves : ∀ a, (body a).1.frame j = h.frame j) : (h.session k p (h.form args body)).1.frame j = h.frame j :=
  Hub.session_hub (P := fun g => g.frame j = h.frame j) rfl fun _ =>
    Hub.form_hub (P := fun g => g.frame j = h.frame j) rfl fun a _ => leaves a

/-- A request that names a frame takes one of its own port or of none (R6), and leaves the others as its body does. -/
theorem Hub.Foreign.session_handled_frame (foreign : h.Foreign p j) {k : ReqKind} {α : Type} {accepts : Place → Bool}
    {payload : List Word} {args : Word → List Word → Option α} {body : FrameId → Context → α → Hub × Reply}
    (near : ∀ x, accepts x = true → x.owner = some p ∨ x.owner = none)
    (leaves : ∀ i c a, j ≠ i → (body i c a).1.frame j = h.frame j) :
    (h.session k p (h.handled accepts payload args body)).1.frame j = h.frame j :=
  Hub.session_hub (P := fun g => g.frame j = h.frame j) rfl fun _ =>
    Hub.handled_hub (P := fun g => g.frame j = h.frame j) rfl fun i c _ _ a used takes _ =>
      leaves i c a (foreign.ne used (near c.place takes))

theorem Place.owner_of_isIsolated {x : Place} (isolated : x.isIsolated = true) : x.owner = none := by
  cases x <;> simp_all [Place.isIsolated, Place.owner]

/-- The body of every request leaves the frames that other ports fill, hold or stack. -/
theorem request_frame {i : Instr} {r : Request} (filed : h.Filed) (foreign : h.Foreign p j)
    (e : requestOf i = some (p, r)) : (bodyOf h i).1.frame j = h.frame j := by
  have idle : ∀ k, j ∉ (h.cls k).queue := fun k => foreign.not_mem filed (x := .queue k) (.inr rfl)
  have unheld : j ∉ (h.port p).hold := foreign.not_mem filed (x := .hold p) (.inl rfl)
  have unstacked : j ∉ (h.port p).stack.map StackEntry.frame := foreign.not_mem filed (x := .stack p) (.inl rfl)
  have filling : ∀ x, Place.isFillingOf p x = true → x.owner = some p ∨ x.owner = none :=
    fun _ own => .inl (Place.owner_of_isFillingOf own)
  have held : ∀ x, Place.isHeldOf p x = true → x.owner = some p ∨ x.owner = none :=
    fun _ own => .inl (Place.owner_of_isHeldOf own)
  have kept : ∀ x, Place.isKeptOf p x = true → x.owner = some p ∨ x.owner = none :=
    fun _ own => .inl (Place.owner_of_isKeptOf own)
  have isolated : ∀ x, Place.isIsolated x = true → x.owner = some p ∨ x.owner = none :=
    fun _ own => .inr (Place.owner_of_isIsolated own)
  cases i
  all_goals simp only [requestOf, Option.some.injEq, Prod.mk.injEq, reduceCtorEq] at e
  all_goals obtain ⟨rfl, -⟩ := e
  case join => exact Hub.session_form_frame fun t => h.joinWith_frame _ t j
  case leave =>
    refine Hub.session_form_frame fun _ => ?_
    split
    · exact h.endSession_frame ..
    · rfl
  case renew => exact Hub.session_form_frame fun _ => rfl
  case status => exact Hub.session_form_frame fun _ => rfl
  case hubInfo => exact Hub.session_form_frame fun _ => rfl
  case subscribe => exact Hub.session_form_frame fun _ => rfl
  case parkOpen =>
    exact Hub.session_hub (P := fun g => g.frame j = h.frame j) rfl fun hs =>
      Hub.form_hub (P := fun g => g.frame j = h.frame j) rfl fun a _ =>
        Hub.parkOpenWith_frame foreign (online_of_sessionRefusal hs (by decide)) a
  case parkWrite => exact foreign.session_handled_frame filling fun _ _ a hj => Hub.parkWriteWith_frame hj a
  case parkClose => exact foreign.session_handled_frame filling fun _ _ _ hj => Hub.parkCloseWith_frame hj
  case parkAbort => exact foreign.session_handled_frame filling fun _ _ _ hj =>
    (Hub.freeFrame_frame ..).trans (if_neg hj)
  case claim => exact Hub.session_form_frame fun m => Hub.claimWith_frame idle m
  case readImage => exact foreign.session_handled_frame kept fun _ _ a hj => Hub.readImageWith_frame hj a
  case writeImage => exact foreign.session_handled_frame held fun _ _ a hj => Hub.writeImageWith_frame hj a
  case edit => exact foreign.session_handled_frame kept fun _ _ f hj => Hub.editWith_frame hj f
  case returnFrame => exact foreign.session_handled_frame held fun _ _ _ hj => Hub.returnWith_frame hj
  case repark => exact foreign.session_handled_frame held fun _ _ _ hj => Hub.settleChecked_frame hj _
  case retire => exact foreign.session_handled_frame held fun _ _ _ hj =>
    (Hub.freeFrame_frame ..).trans (if_neg hj)
  case claimWait => exact Hub.session_form_frame fun a => Hub.claimWaitWith_frame idle a
  case claimResult => exact Hub.session_form_frame fun _ => h.claimResultNow_frame ..
  case claimCancel => exact Hub.session_form_frame fun _ => h.claimCancelNow_frame ..
  case suspend => exact foreign.session_handled_frame held fun _ _ _ hj => Hub.suspendWith_frame hj
  case resumeTop => exact Hub.session_form_frame fun _ => Hub.resumeTopNow_frame unstacked
  case preempt => exact Hub.session_form_frame fun a => h.preemptWith_frame _ a j
  case takePreempt => exact Hub.session_form_frame fun _ => Hub.takePreemptNow_frame unheld idle
  case endPreempt => exact Hub.session_form_frame fun _ => Hub.endPreemptNow_frame unstacked
  case isolationList => exact Hub.session_form_frame fun _ => rfl
  case inspect => exact foreign.session_handled_frame isolated fun _ _ a hj => Hub.inspectWith_frame hj a
  case isolationWrite => exact foreign.session_handled_frame isolated fun _ c a _ => h.isolationWriteWith_frame c a j
  case repair => exact foreign.session_handled_frame isolated fun _ _ a hj => Hub.repairWith_frame hj a
  case discard => exact foreign.session_handled_frame isolated fun _ _ _ hj =>
    (Hub.freeFrame_frame ..).trans (if_neg hj)
  case noticeRead => exact Hub.session_form_frame fun n => h.noticeReadWith_frame _ n.toNat j
  case classSet => exact Hub.session_form_frame fun a => Hub.classSetWith_frame idle a
  case classGet => exact Hub.session_form_frame fun _ => rfl

end Foreign

end Sys2Proof.Machine

/-- Settles O49: a request that is admitted is its body, which leaves every frame of another port, and one that is
turned away changes nothing. -/
theorem requestsLeaveOtherPortsFramesAlone : Obligations.RequestsLeaveOtherPortsFramesAlone := by
  intro i s t p q r j filed hr other e placed
  rw [exec_request hr] at e
  rcases State.admission_hub e with same | taken
  · rw [same]
  · rw [taken]
    exact request_frame filed (Hub.foreign_of_placed other placed) hr
end

section
/-!
A true Wait List, and no claim waiting beside a queued frame it could claim (R83). An operation is calm when it places
and ends no wait and queues no frame; the others are put in terms of three changes: a wait ends, a wait is placed where
no frame is eligible, and a frame that suits no waiting claim is queued. Between the queueing of its frame and the end
of the wait of its own port a RETURN breaks the law (R76, R90), so the commands are gone through whole and not deed by
deed.
-/
open Sys2Proof Sys2Proof.Machine
namespace Sys2Proof.Machine

/-! ### What a claim waits for, and what may be claimed -/

/-- The class mask a record waits under, none for a record that does not wait (R82). -/
def ClaimRec.wants : ClaimRec → Option ClassSet
  | .waiting m _ => some m
  | _ => Option.none

theorem ClaimRec.isWaiting_eq (r : ClaimRec) : r.isWaiting = r.wants.isSome := by cases r <;> rfl

/-- A frame with this control record is in the class mask of a claim, and its affinity includes the claiming port. -/
def Control.Suits (k : Control) (m : ClassSet) (p : PortId) : Prop :=
  m.getLsbD k.cls.val = true ∧ k.affinity.getLsbD p.val = true

/-- The frame is QUEUED under this control record. -/
def Hub.QueuedAs (h : Hub) (i : FrameId) (k : Control) : Prop :=
  ∃ c, h.ctx i = some c ∧ c.place.isQueued = true ∧ c.control = k

/-- No waiting claim suits a frame with this control record. -/
def Hub.Unwanted (h : Hub) (k : Control) : Prop := ∀ q m, (h.port q).claim.wants = some m → ¬ k.Suits m q

theorem Hub.claimTakes_iff (h : Hub) (c : Context) (passed : Option PortId) (q : PortId) :
    h.claimTakes c passed q = true ↔
      (∃ m, (h.port q).claim.wants = some m ∧ c.control.Suits m q) ∧ passed ≠ some q := by
  unfold Hub.claimTakes ClaimRec.wants Control.Suits Context.inMask Context.allows
  cases (h.port q).claim <;> simp

/-- The two laws of R83: the Wait List is true, and no waiting claim suits a queued frame. -/
structure Hub.Served (h : Hub) : Prop where
  waits : h.WaitListTrue
  apart : ∀ i k, h.QueuedAs i k → h.Unwanted k

theorem Hub.served_iff (h : Hub) : h.Served ↔ h.WaitListTrue ∧ h.NoMissedFrame := by
  refine ⟨fun ⟨waits, apart⟩ => ⟨waits, fun q i c used queued => ?_⟩,
    fun ⟨waits, missed⟩ => ⟨waits, fun i k ⟨c, used, queued, control⟩ q m waiting suits => ?_⟩⟩
  · rw [Bool.eq_false_iff, ne_eq, Hub.claimTakes_iff]
    rintro ⟨⟨m, waiting, suits⟩, -⟩
    exact apart i _ ⟨c, used, queued, rfl⟩ q m waiting suits
  · subst control
    have takes := (h.claimTakes_iff c none q).mpr ⟨⟨m, waiting, suits⟩, by simp⟩
    exact absurd (missed q i c used queued) (by simp [takes])

/-! ### Calm operations -/

/-- No wait is placed or ended, and every frame that is QUEUED was so before, under the same control record. -/
structure Hub.Calm (h g : Hub) : Prop where
  claims   : ∀ q, (g.port q).claim.wants = (h.port q).claim.wants
  waitList : g.waitList = h.waitList
  queued   : ∀ i k, g.QueuedAs i k → h.QueuedAs i k

theorem Hub.Served.calm {h g : Hub} (hs : h.Served) (x : h.Calm g) : g.Served where
  waits := by
    refine ⟨x.waitList ▸ hs.waits.1, fun q => ?_⟩
    rw [x.waitList, hs.waits.2, ClaimRec.isWaiting_eq, ClaimRec.isWaiting_eq, x.claims]
  apart i k queued q m waiting := hs.apart i k (x.queued i k queued) q m (x.claims q ▸ waiting)

section Calm
variable {h : Hub} {i : FrameId} {c : Context}

theorem Hub.Calm.refl : h.Calm h := ⟨fun _ => rfl, rfl, fun _ _ => id⟩

theorem Hub.Calm.trans {g k : Hub} (x : h.Calm g) (y : g.Calm k) : h.Calm k :=
  ⟨fun q => (y.claims q).trans (x.claims q), y.waitList.trans x.waitList, fun i k => x.queued i k ∘ y.queued i k⟩

theorem Hub.Calm.foldl {α : Type} {f : Hub → α → Hub} (hf : ∀ (g : Hub) a, g.Calm (f g a)) (l : List α) :
    h.Calm (l.foldl f h) := by
  induction l generalizing h with
  | nil => exact .refl
  | cons a l ih => exact (hf h a).trans ih

theorem Hub.Calm.of_ctx {g : Hub} (ctx : ∀ j, g.ctx j = h.ctx j) (waitList : g.waitList = h.waitList)
    (claims : ∀ q, (g.port q).claim.wants = (h.port q).claim.wants) : h.Calm g :=
  ⟨claims, waitList, fun i k => by unfold Hub.QueuedAs; rw [ctx]; exact id⟩

theorem Hub.Calm.of_ports {g : Hub} (ports : ∀ q, g.port q = h.port q) (waitList : g.waitList = h.waitList)
    (queued : ∀ i k, g.QueuedAs i k → h.QueuedAs i k) : h.Calm g :=
  ⟨fun q => by rw [ports], waitList, queued⟩

theorem Hub.updPort_calm {p : PortId} {f : Port → Port} (hf : (f (h.port p)).claim.wants = (h.port p).claim.wants) :
    h.Calm (h.updPort p f) := .of_ctx (fun _ => rfl) rfl fun q => by
  rw [Hub.updPort_port]
  split
  · next e => rw [e]; exact hf
  · rfl

theorem Hub.updClass_calm (h : Hub) (k : ClassId) (f : ClassRec → ClassRec) : h.Calm (h.updClass k f) :=
  .of_ctx (fun _ => rfl) rfl fun _ => rfl

theorem Hub.with_isolation_calm (h : Hub) (l : List FrameId) : h.Calm { h with isolation := l } :=
  .of_ctx (fun _ => rfl) rfl fun _ => rfl

/-- The fields of a frame are replaced, and it is then not QUEUED, or was so before under the same control record. -/
theorem Hub.putCtx_calm (hc : c.place.isQueued = true → h.QueuedAs i c.control) : h.Calm (h.putCtx i c) := by
  refine .of_ports (fun _ => rfl) rfl fun j k => ?_
  rintro ⟨d, used, queued, rfl⟩
  rw [Hub.ctx_putCtx] at used
  split at used
  · next e => cases used; subst e; exact hc queued
  · exact ⟨d, used, queued, rfl⟩

theorem Hub.takenOff_calm (hc : c.place.isQueued = false) : h.Calm (h.putCtx i c) :=
  Hub.putCtx_calm fun queued => absurd queued (by simp [hc])

/-- Frames return to FREE (R18). -/
theorem Hub.Calm.of_freed {g : Hub} {l : List FrameId} (ports : ∀ q, g.port q = h.port q)
    (waitList : g.waitList = h.waitList) (ctx : ∀ j, g.ctx j = if j ∈ l then none else h.ctx j) : h.Calm g := by
  refine .of_ports ports waitList fun j k => ?_
  rintro ⟨d, used, queued, rfl⟩
  rw [ctx] at used
  split at used
  · cases used
  · exact ⟨d, used, queued, rfl⟩

theorem Hub.post_calm (h : Hub) (p : PortId) (n : Notice) : h.Calm (h.post p n) := by
  obtain ⟨-, -, -, ctx, -, -, -, waitList, -⟩ := h.post_rest p n
  refine .of_ctx ctx waitList fun q => ?_
  rw [Hub.post_port]
  split
  · next e => obtain ⟨-, -, claim, -⟩ := (h.port p).told_rest [n]; rw [e, claim]
  · rfl

theorem Hub.postReady_calm (h : Hub) (k : ClassId) : h.Calm (h.postReady k) := by
  obtain ⟨-, -, -, ctx, -, -, -, waitList, -⟩ := h.postReady_rest k
  refine .of_ctx ctx waitList fun q => ?_
  obtain ⟨-, -, claim, -⟩ := (h.port q).told_rest (readyFor true k (h.port q))
  rw [Hub.postReady_port, claim]

theorem Hub.leaveOwner_calm (h : Hub) (i : FrameId) (c : Context) : h.Calm (h.leaveOwner i c) := by
  obtain ⟨-, -, -, ctx, -, -, -, waitList, -⟩ := h.leaveOwner_rest i c
  refine .of_ctx ctx waitList fun q => ?_
  obtain ⟨claim, -⟩ := h.portWithout_rest i c q
  rw [Hub.leaveOwner_port, claim]

theorem Hub.postIsolated_calm (h : Hub) (i : FrameId) (c : Context) (r : IsoReason) :
    h.Calm (h.postIsolated i c r) := by
  unfold Hub.postIsolated
  dsimp only
  split
  · split
    · exact h.post_calm ..
    · exact (h.post_calm ..).trans (Hub.post_calm ..)
  · exact h.post_calm ..

theorem Hub.setReason_calm (h : Hub) (i : FrameId) (c : Context) (r : IsoReason) : h.Calm (h.setReason i c r) :=
  Hub.takenOff_calm (c := { c with place := .isolated r }) rfl

theorem Hub.isolate_calm (h : Hub) (i : FrameId) (c : Context) (r : IsoReason) : h.Calm (h.isolate i c r) :=
  (h.leaveOwner_calm i c).trans <| (Hub.setReason_calm _ i c r).trans <|
    (Hub.with_isolation_calm _ _).trans (Hub.postIsolated_calm ..)

theorem Hub.enterHold_calm (h : Hub) (i : FrameId) (c : Context) (p : PortId) : h.Calm (h.enterHold i c p) :=
  (Hub.takenOff_calm rfl).trans (Hub.updPort_calm rfl)

theorem Hub.claimFrame_calm (h : Hub) (p : PortId) (i : FrameId) (c : Context) : h.Calm (h.claimFrame p i c) :=
  (h.updClass_calm _ _).trans (Hub.enterHold_calm ..)

theorem Hub.freeFrame_calm (h : Hub) (i : FrameId) (c : Context) : h.Calm (h.freeFrame i c) := by
  obtain ⟨ports, -, waitList, -⟩ := h.freeFrame_rest i c
  exact .of_freed (l := [i]) ports waitList fun j => by simp [Hub.freeFrame_ctx]

theorem Hub.freeAll_calm (h : Hub) (l : List FrameId) : h.Calm (h.freeAll l) := by
  obtain ⟨ports, -, -, waitList, -⟩ := h.freeAll_rest l
  exact .of_freed ports waitList (h.freeAll_ctx l)

theorem Hub.stackFrame_calm (h : Hub) (p : PortId) (i : FrameId) : h.Calm (h.stackFrame p i) := by
  unfold Hub.stackFrame
  split
  · exact Hub.takenOff_calm rfl
  · exact .refl

theorem Hub.pushVoluntary_calm (h : Hub) (p : PortId) (i : FrameId) : h.Calm (h.pushVoluntary p i) :=
  (Hub.updPort_calm (f := fun x => { x with hold := x.hold.erase i }) rfl).trans <|
    (Hub.stackFrame_calm ..).trans (Hub.updPort_calm rfl)

theorem Hub.resumeFrame_calm (h : Hub) (p : PortId) (i : FrameId) : h.Calm (h.resumeFrame p i) := by
  unfold Hub.resumeFrame
  split
  · exact h.enterHold_calm ..
  · exact .refl

theorem Hub.beginService_calm (h : Hub) (p : PortId) (n : Urgent) : h.Calm (h.beginService p n) :=
  (Hub.Calm.foldl (fun g i => g.stackFrame_calm p i) _).trans <|
    (Hub.updPort_calm rfl).trans <| (Hub.updPort_calm rfl).trans (Hub.post_calm ..)

theorem Hub.setLatch_calm (h : Hub) (p : PortId) (l : Latch) : h.Calm (h.setLatch p l) :=
  Hub.updPort_calm (f := fun x => { x with latch := l }) rfl

theorem Hub.postUrgent_calm (h : Hub) (t : PortId) (n : Urgent) : h.Calm (h.postUrgent t n).1 := by
  unfold Hub.postUrgent
  split
  · exact h.setLatch_calm ..
  · exact .refl
  · exact h.setLatch_calm ..
  · exact .refl

theorem Hub.endSession_calm (h : Hub) (p : PortId) : h.Calm (h.endSession p) := by
  have cancelled : h.Calm (h.cancelPending p) := by
    unfold Hub.cancelPending
    split
    · exact (h.post_calm ..).trans (Hub.updPort_calm rfl)
    · exact .refl
  exact cancelled.trans (Hub.updPort_calm rfl)

theorem Hub.beginSession_calm (h : Hub) (p : PortId) (t : Settings) : h.Calm (h.beginSession p t) :=
  Hub.updPort_calm (f := fun x => { x with state := .online t.lease, epoch := x.epoch + 1, settings := some t }) rfl

theorem Hub.setSubscription_calm (h : Hub) (p : PortId) (m : ClassSet) : h.Calm (h.setSubscription p m) :=
  Hub.updPort_calm (f := fun x => { x with settings := x.settings.map (fun t => { t with mask := m }) }) rfl

theorem Hub.restartLease_calm (h : Hub) (p : PortId) : h.Calm (h.restartLease p) :=
  Hub.updPort_calm (by split <;> rfl)

theorem Hub.lapse_calm (h : Hub) (p : PortId) (n : Urgent) : h.Calm (h.lapse p n) :=
  (Hub.updPort_calm rfl).trans ((Hub.post_calm ..).trans (Hub.post_calm ..))

theorem Hub.fenceLatch_calm (h : Hub) (p : PortId) : h.Calm (h.fenceLatch p) :=
  (Hub.Calm.foldl (fun g _ => g.post_calm ..) _).trans (Hub.updPort_calm rfl)

/-- A queued frame takes another band or waited time. -/
theorem Hub.requeued_calm {e e' : Prio} {w w' : Nat} (used : h.ctx i = some c) (place : c.place = .queued e w) :
    h.Calm (h.putCtx i { c with place := .queued e' w' }) :=
  Hub.putCtx_calm fun _ => ⟨c, used, by rw [place]; rfl, rfl⟩

theorem Hub.restartWaits_calm (h : Hub) (l : List FrameId) : h.Calm (h.restartWaits l) := by
  induction l generalizing h with
  | nil => exact .refl
  | cons i l ih =>
    unfold Hub.restartWaits
    split
    · next used =>
      split
      · next place => exact (Hub.requeued_calm used place).trans (ih _)
      · exact ih h
    · exact ih h

theorem Hub.setClassRecord_calm (h : Hub) (a : ClassSetArgs) : h.Calm (h.setClassRecord a) := by
  unfold Hub.setClassRecord
  dsimp only
  split
  · exact h.updClass_calm ..
  · exact (h.updClass_calm ..).trans (Hub.restartWaits_calm ..)

theorem Hub.setBand_calm (h : Hub) (e : Prio) {l : List FrameId}
    (queued : ∀ j ∈ l, ∃ c, h.ctx j = some c ∧ c.place.isQueued = true) : h.Calm (h.setBand e l) := by
  obtain ⟨ports, -, -, waitList, -⟩ := h.setBand_rest e l
  refine .of_ports ports waitList fun j k => ?_
  rintro ⟨d, used, hd, rfl⟩
  rw [Hub.setBand_ctx] at used
  split at used
  · next hj =>
    obtain ⟨c, hc, hq⟩ := queued j hj
    rw [hc] at used
    cases used
    exact ⟨c, hc, hq, rfl⟩
  · exact ⟨d, used, hd, rfl⟩

theorem Hub.promote_calm (h : Hub) (k : ClassId) (b : Prio) : h.Calm (h.promote k b) := by
  unfold Hub.promote
  dsimp only
  split
  · exact .refl
  · exact (h.updClass_calm ..).trans (Hub.setBand_calm _ _ fun _ hj => Hub.dueFrames_queued (h := h) hj)

theorem Hub.tick_calm (h : Hub) : h.Calm h.tick := by
  refine ⟨fun q => ?_, rfl, fun i k => ?_⟩
  · rw [Hub.tick_port]
    simp only [Port.tick]
    cases (h.port q).claim <;> rfl
  · rintro ⟨d, used, queued, rfl⟩
    rw [Hub.ctx, Hub.tick_frame, Frame.tick] at used
    split at used
    · next c hc =>
      split at used
      · next place => cases used; exact ⟨c, hc, by rw [place]; rfl, rfl⟩
      · exact ⟨d, used, queued, rfl⟩
    · exact ⟨d, used, queued, rfl⟩

theorem Hub.Opens.calm {g : Hub} (o : h.Opens g) : h.Calm g := by
  cases o with
  | @park p i c len check =>
    obtain ⟨-, waitList, -⟩ := h.openPark_rest p i c len check
    refine ⟨fun q => ?_, waitList, fun j k => ?_⟩
    · rw [Hub.openPark_port]
      split
      · next e => rw [e]
      · rfl
    · rintro ⟨d, used, queued, rfl⟩
      rw [Hub.openPark_ctx] at used
      split at used
      · cases used; cases queued
      · exact ⟨d, used, queued, rfl⟩

theorem Hub.storeWords_calm (h : Hub) (c : Context) (off : Nat) (ws : List Word) : h.Calm (h.storeWords c off ws) := by
  obtain ⟨frames, -, ports, waitList, -⟩ := h.storeWords_rest c off ws
  exact .of_ctx (fun j => by rw [Hub.ctx, frames, Hub.ctx]) waitList fun q => by rw [ports]

theorem Hub.Writes.calm {g : Hub} (w : h.Writes g) : h.Calm g := by
  cases w with
  | fill => exact (h.storeWords_calm ..).trans (Hub.takenOff_calm rfl)
  | modify => exact (h.storeWords_calm ..).trans (Hub.takenOff_calm rfl)
  | rewrite => exact h.storeWords_calm ..
  | strike => exact .of_ctx (fun _ => rfl) rfl fun _ => rfl

end Calm

/-! ### Waits ended and placed, and frames queued -/

section Served
variable {h : Hub} {p : PortId} {i : FrameId} {c : Context}

/-- An ended wait is off the Wait List, and its record takes nothing (R83). -/
theorem Hub.Served.endWait (hs : h.Served) (p : PortId) {r : ClaimRec} (ended : r.wants = none) :
    (h.endWait p r).Served := by
  obtain ⟨⟨once, listed⟩, apart⟩ := hs
  have claims : ∀ q, ((h.endWait p r).port q).claim.wants = if q = p then none else (h.port q).claim.wants := by
    intro q
    rw [Hub.endWait_port]
    split
    · exact ended
    · rfl
  refine ⟨⟨once.erase p, fun q => ?_⟩, fun i k queued q m waiting => ?_⟩
  · rw [ClaimRec.isWaiting_eq, claims]
    refine once.mem_erase_iff.trans ?_
    rw [listed, ClaimRec.isWaiting_eq]
    split <;> simp_all
  · rw [claims] at waiting
    split at waiting
    · cases waiting
    · exact apart i k queued q m waiting

/-- A wait placed where the port has none and may claim no queued frame (R86). -/
theorem Hub.Served.beginWait (hs : h.Served) {m : ClassSet} (idle : (h.port p).claim.isWaiting = false)
    (ineligible : ∀ j, ¬ h.Eligible p m j) (timeout : Nat) : (h.beginWait p m timeout).Served := by
  obtain ⟨⟨once, listed⟩, apart⟩ := hs
  have ports : ∀ q, (h.beginWait p m timeout).port q =
      if q = p then { h.port p with claim := .waiting m timeout } else h.port q :=
    fun _ => (Hub.with_waitList_port _ _ _).trans (Hub.updPort_port ..)
  have unlisted : p ∉ h.waitList := fun hp => by simp [(listed p).mp hp] at idle
  refine ⟨⟨?_, fun q => ?_⟩, fun i k queued q n waiting => ?_⟩
  · exact List.nodup_append.mpr ⟨once, List.nodup_singleton p, fun a ha b hb => by
      rintro rfl
      exact unlisted (List.mem_singleton.mp hb ▸ ha)⟩
  · rw [ports]
    refine List.mem_append.trans ?_
    rw [listed, List.mem_singleton]
    split
    · next e => simp [e, ClaimRec.isWaiting]
    · next e => simp [e]
  · rw [ports] at waiting
    split at waiting
    · next e =>
      cases waiting
      subst e
      obtain ⟨c, used, place, rfl⟩ := queued
      exact fun ⟨masked, allowed⟩ => ineligible i ⟨c, used, place, masked, allowed⟩
    · exact apart i k queued q n waiting

/-- A frame that suits no waiting claim may be queued. -/
theorem Hub.Served.putCtx (hs : h.Served) (unwanted : h.Unwanted c.control) (i : FrameId) :
    (h.putCtx i c).Served where
  waits := hs.waits
  apart j k := by
    rintro ⟨d, used, queued, rfl⟩
    rw [Hub.ctx_putCtx] at used
    split at used
    · cases used; exact unwanted
    · exact hs.apart j _ ⟨d, used, queued, rfl⟩

/-- Where the offer of a frame finds nothing, the frame suits no waiting claim but that of the port passed over. -/
theorem Hub.Served.unsuited (hs : h.Served) {passed : Option PortId} (unfound : h.offer c passed = none)
    {q : PortId} {m : ClassSet} (waiting : (h.port q).claim.wants = some m) (other : passed ≠ some q) :
    ¬ c.control.Suits m q := by
  have listed : q ∈ h.waitList := (hs.waits.2 q).mpr (by rw [ClaimRec.isWaiting_eq, waiting]; rfl)
  have untaken := Hub.offer_none unfound q listed
  exact fun suits => by simp [(h.claimTakes_iff c passed q).mpr ⟨⟨m, waiting, suits⟩, other⟩] at untaken

/-- The queueing of a frame, but for its place in the queue and the notices. -/
theorem Hub.enqueue_calm (h : Hub) (i : FrameId) (c : Context) (cause : Cause) :
    (h.putCtx i { c with cause := some cause, place := .queued c.control.base 0 }).Calm (h.enqueue i c cause) := by
  unfold Hub.enqueue
  dsimp only
  split
  · exact (Hub.updClass_calm ..).trans (Hub.postReady_calm ..)
  · exact Hub.updClass_calm ..

/-- A frame that suits no waiting claim is queued (R25). -/
theorem Hub.Served.enqueue (hs : h.Served) (unwanted : h.Unwanted c.control) (i : FrameId) (cause : Cause) :
    (h.enqueue i c cause).Served :=
  (hs.putCtx (c := { c with cause := some cause, place := .queued c.control.base 0 }) unwanted i).calm
    (h.enqueue_calm i c cause)

theorem Hub.Served.grant (hs : h.Served) (i : FrameId) (c : Context) (q : PortId) : (h.grant i c q).Served :=
  (hs.calm (h.enterHold_calm i c q)).endWait q (r := .granted (h.handle i)) rfl

/-- A frame made available goes to a claim that takes it, or suits none; a port passed over has no wait (R87, R89). -/
theorem Hub.Served.makeAvailable (hs : h.Served) (i : FrameId) (c : Context) (cause : Cause) {passed : Option PortId}
    (idle : ∀ q ∈ passed, (h.port q).claim.wants = none) : (h.makeAvailable i c cause passed).1.Served := by
  unfold Hub.makeAvailable
  split
  · exact hs.grant ..
  · next unfound =>
    refine hs.enqueue (fun q m waiting => hs.unsuited unfound waiting fun e => ?_) i cause
    simp [idle q e] at waiting

theorem Hub.Served.makeAvailable_none (hs : h.Served) (i : FrameId) (c : Context) (cause : Cause) :
    (h.makeAvailable i c cause none).1.Served := hs.makeAvailable i c cause nofun

theorem Hub.Calm.endWait {g : Hub} (x : h.Calm g) (p : PortId) (r : ClaimRec) :
    (h.endWait p r).Calm (g.endWait p r) where
  claims q := by
    rw [Hub.endWait_port, Hub.endWait_port]
    split
    · rfl
    · exact x.claims q
  waitList := congrArg (·.erase p) x.waitList
  queued := x.queued

/-- A frame passes over a port whose wait then ends, as though that wait had ended before (R76, R90). -/
theorem Hub.Served.enqueue_endWait (hs : h.Served) {r : ClaimRec} (ended : r.wants = none) (i : FrameId)
    (cause : Cause) (unfound : h.offer c (some p) = none) : ((h.enqueue i c cause).endWait p r).Served := by
  refine ((hs.endWait p ended).putCtx (c := { c with cause := some cause, place := .queued c.control.base 0 })
    (fun q m waiting => ?_) i).calm ((h.enqueue_calm i c cause).endWait p r)
  rw [Hub.endWait_port] at waiting
  split at waiting
  · exact nomatch ended.symm.trans waiting
  · next other => exact hs.unsuited unfound waiting fun e => other (Option.some.inj e).symm

/-- A RETURN ends the wait of its own port where it queues a frame that this wait would take (R90). -/
theorem Hub.Served.returnEndsWait (hs : h.Served) (i : FrameId) (c : Context) (cause : Cause) :
    ((h.makeAvailable i c cause (some p)).1.returnEndsWait p c (h.makeAvailable i c cause (some p)).2).Served := by
  unfold Hub.makeAvailable
  split
  · exact hs.grant ..
  · next unfound =>
    have same : (h.enqueue i c cause).claimTakes c none p = h.claimTakes c none p := by
      rw [Bool.eq_iff_iff, Hub.claimTakes_iff, Hub.claimTakes_iff, (h.enqueue_calm i c cause).claims]
      rfl
    simp only [Hub.returnEndsWait, same]
    split
    · exact hs.enqueue_endWait rfl i cause unfound
    · next kept =>
      refine hs.enqueue (fun q m waiting suits => ?_) i cause
      by_cases own : q = p
      · subst own
        exact kept ⟨trivial, (h.claimTakes_iff c none q).mpr ⟨⟨m, waiting, suits⟩, nofun⟩⟩
      · exact hs.unsuited unfound waiting (fun e => own (Option.some.inj e).symm) suits

/-! ### The fence and END_PREEMPT -/

/-- A port that waits for nothing waits for nothing after a frame was made available. -/
theorem Hub.makeAvailable_idle (idle : (h.port p).claim.wants = none) (i : FrameId) (c : Context) (cause : Cause)
    (passed : Option PortId) : (((h.makeAvailable i c cause passed).1).port p).claim.wants = none := by
  unfold Hub.makeAvailable
  split
  · next q _ =>
    obtain ⟨-, ports, -⟩ := h.grant_parts i { c with cause := some cause } q
    rw [ports]
    split
    · rfl
    · exact idle
  · rw [(h.enqueue_calm i c cause).claims]
    exact idle

theorem Hub.Served.reclaim (hs : h.Served) (idle : (h.port p).claim.wants = none) (i : FrameId) :
    (h.reclaim p i).Served ∧ ((h.reclaim p i).port p).claim.wants = none := by
  unfold Hub.reclaim
  split
  · exact ⟨hs, idle⟩
  · next c _ =>
    have given := hs.makeAvailable i c .reclaimed (passed := some p) (by simpa using idle)
    have still := Hub.makeAvailable_idle idle i c .reclaimed (some p)
    dsimp only
    split
    · exact ⟨given, still⟩
    · exact ⟨given.calm (Hub.post_calm ..), ((Hub.post_calm ..).claims p).trans still⟩

theorem Hub.Served.foldl_reclaim (hs : h.Served) (idle : (h.port p).claim.wants = none) (l : List FrameId) :
    (l.foldl (fun g i => g.reclaim p i) h).Served := by
  induction l generalizing h with
  | nil => exact hs
  | cons i l ih =>
    obtain ⟨hs', idle'⟩ := hs.reclaim idle i
    exact ih hs' idle'

/-- The fence ends the wait of its port before it makes the frames of the port available (R141, R143). -/
theorem Hub.Served.fence (hs : h.Served) (p : PortId) (why : FenceReason) : (h.fence p why).Served := by
  have fenced := hs.calm (Hub.updPort_calm (p := p) (f := fun x => { x with state := .fenced }) rfl)
  have emptied := (fenced.calm (Hub.freeAll_calm _ (h.port p).filling)).calm
    (Hub.updPort_calm (p := p) (f := fun x => { x with filling := [] }) rfl)
  have taken : ∀ g : Hub, g.Calm ((g.fenceLatch p).updPort p (fun x => { x with hold := [], stack := [] })) :=
    fun g => (g.fenceLatch_calm p).trans (Hub.updPort_calm rfl)
  have ended := emptied.endWait p (r := .none) rfl
  refine ((ended.calm (taken _)).foldl_reclaim (((taken _).claims p).trans ?_) _).calm
    (Hub.updPort_calm (f := fun y => { y with notices := [(h.port p).fenceReport why] }) rfl)
  rw [Hub.endWait_port, if_pos rfl]
  rfl

theorem Hub.Served.deal {t : EndTally} (hs : t.hub.Served) (p : PortId) (i : FrameId) : (t.deal p i).hub.Served := by
  unfold EndTally.deal
  split
  · exact hs
  · split
    · exact hs.calm (Hub.enterHold_calm ..)
    · exact hs.makeAvailable_none ..

theorem Hub.Served.foldl_deal {t : EndTally} (hs : t.hub.Served) (p : PortId) (l : List FrameId) :
    (l.foldl (fun t i => t.deal p i) t).hub.Served := by
  induction l generalizing t with
  | nil => exact hs
  | cons i l ih => exact ih (hs.deal p i)

theorem Hub.Served.endService (hs : h.Served) (p : PortId) (v : Urgent) : (h.endService p v).hub.Served := by
  have lifted : h.Calm (h.liftGroup p).hub :=
    Hub.updPort_calm (f := fun x => { x with stack := x.stack.filter (fun e => e.tag != .preempt) }) rfl
  rw [Hub.endService_hub]
  exact (Hub.Served.foldl_deal (hs.calm lifted) p _).calm ((Hub.post_calm ..).trans (Hub.setLatch_calm ..))

end Served

/-! ### The requests -/

section Requests
variable {h : Hub} {p : PortId} {i : FrameId} {c : Context}

theorem Hub.joinWith_calm (h : Hub) (p : PortId) (t : Settings) : h.Calm (h.joinWith p t).1 := by
  unfold Hub.joinWith
  split
  · exact .refl
  · split
    · exact h.beginSession_calm p t
    · exact .refl

theorem Hub.readImageWith_calm (h : Hub) (i : FrameId) (c : Context) (a : Nat × Nat) :
    h.Calm (h.readImageWith i c a).1 := by
  unfold Hub.readImageWith
  split
  · exact .refl
  · split
    · exact h.isolate_calm ..
    · exact .refl

/-- A frame that is not QUEUED is edited. -/
theorem Hub.editWith_calm (kept : c.place.isKeptOf p = true) (f : FieldChange) : h.Calm (h.editWith i c f).1 := by
  unfold Hub.editWith
  split
  · exact .refl
  · split
    · exact .refl
    · split
      · exact .refl
      · refine Hub.takenOff_calm ?_
        cases hp : c.place <;> simp_all [Place.isKeptOf, Place.isQueued]

theorem Hub.inspectWith_calm (h : Hub) (i : FrameId) (c : Context) (a : Nat × Nat) :
    h.Calm (h.inspectWith i c a).1 := by
  unfold Hub.inspectWith
  split
  · exact .refl
  · split
    · exact .refl
    · split
      · exact h.setReason_calm ..
      · exact .refl

theorem Hub.claimBest_calm {m : ClassSet} {g : Hub} {ws : List Word} (e : h.claimBest p m = some (g, ws)) :
    h.Calm g := by
  unfold Hub.claimBest at e
  split at e
  · cases e
  · split at e
    · cases e
    · cases e; exact h.claimFrame_calm ..

theorem Hub.claimWith_calm (h : Hub) (p : PortId) (m : ClassSet) : h.Calm (h.claimWith p m).1 := by
  unfold Hub.claimWith
  split
  · exact .refl
  · split
    · exact .refl
    · split
      · exact .refl
      · next taken => exact Hub.claimBest_calm taken

theorem Hub.suspendWith_calm (h : Hub) (p : PortId) (i : FrameId) : h.Calm (h.suspendWith p i).1 := by
  unfold Hub.suspendWith
  split
  · exact .refl
  · exact h.pushVoluntary_calm ..

theorem Hub.resumeTopNow_calm (h : Hub) (p : PortId) : h.Calm (h.resumeTopNow p).1 := by
  unfold Hub.resumeTopNow
  split
  · exact .refl
  · split
    · exact .refl
    · split
      · exact .refl
      · exact (Hub.updPort_calm rfl).trans (Hub.resumeFrame_calm ..)

theorem Hub.preemptWith_calm (h : Hub) (p : PortId) (a : PortId × ClassId) : h.Calm (h.preemptWith p a).1 := by
  unfold Hub.preemptWith
  split
  · exact .refl
  · split
    · exact .refl
    · split
      · exact .refl
      · exact h.postUrgent_calm ..

theorem Hub.takePreemptNow_calm (h : Hub) (p : PortId) : h.Calm (h.takePreemptNow p).1 := by
  unfold Hub.takePreemptNow
  split
  · split
    · exact .refl
    · dsimp only
      split
      · next taken => exact (h.beginService_calm ..).trans (Hub.claimBest_calm taken)
      · exact h.beginService_calm ..
  · exact .refl

theorem Hub.noticeReadWith_calm (h : Hub) (p : PortId) (n : Nat) : h.Calm (h.noticeReadWith p n).1 := by
  unfold Hub.noticeReadWith
  split
  · exact .refl
  · exact Hub.updPort_calm (f := fun x => { x with notices := (h.port p).notices.drop n }) rfl

theorem Hub.classSetWith_calm (h : Hub) (a : ClassSetArgs) : h.Calm (h.classSetWith a).1 := by
  unfold Hub.classSetWith
  split
  · exact .refl
  · split
    · exact .refl
    · split
      · exact .refl
      · exact h.setClassRecord_calm a

theorem Hub.Served.settleChecked (hs : h.Served) (i : FrameId) (c : Context) (cause : Cause) :
    (h.settleChecked i c cause).1.Served := by
  unfold Hub.settleChecked
  split
  · exact hs.calm (h.isolate_calm ..)
  · exact (hs.calm (h.leaveOwner_calm i c)).makeAvailable_none ..

theorem Hub.Served.parkCloseWith (hs : h.Served) (i : FrameId) (c : Context) : (h.parkCloseWith i c).1.Served := by
  unfold Hub.parkCloseWith
  split
  · exact hs
  · exact hs.settleChecked i c .parked

theorem Hub.Served.returnWith (hs : h.Served) (p : PortId) (i : FrameId) (c : Context) :
    (h.returnWith p i c).1.Served := by
  unfold Hub.returnWith
  split
  · exact hs
  · exact (hs.calm (Hub.updPort_calm (p := p) (f := fun x => { x with hold := x.hold.erase i }) rfl)).returnEndsWait
      i c .returned

theorem Hub.Served.repairWith (hs : h.Served) (i : FrameId) (c : Context) (a : RepairArgs) :
    (h.repairWith i c a).1.Served := by
  unfold Hub.repairWith
  split
  · exact hs
  · split
    · exact hs
    · split
      · exact hs
      · unfold Hub.repairChecked
        split
        · exact hs.calm (h.setReason_calm ..)
        · exact (hs.calm (h.with_isolation_calm (h.isolation.erase i))).makeAvailable_none ..

/-- CLAIM_WAIT takes the best eligible frame, and waits only where no frame is eligible (R85, R86). -/
theorem Hub.Served.claimWaitWith (hs : h.Served) (filed : h.Filed) (p : PortId) (a : ClassSet × Nat) :
    (h.claimWaitWith p a).1.Served := by
  unfold Hub.claimWaitWith
  split
  · exact hs
  · split
    · exact hs
    · split
      · exact hs
      · next idle =>
        rcases Hub.claimBest_cases filed p a.1 with ⟨ineligible, unfound⟩ | ⟨j, c, -, -, taken⟩
        · rw [unfound]
          rw [not_not] at idle
          exact hs.beginWait (by rw [idle]; rfl) ineligible a.2
        · rw [taken]
          exact hs.calm (h.claimFrame_calm p j c)

theorem Hub.setClaim_calm {r : ClaimRec} (hr : r.wants = (h.port p).claim.wants) : h.Calm (h.setClaim p r) :=
  Hub.updPort_calm (f := fun x => { x with claim := r }) hr

theorem Hub.Served.claimResultNow (hs : h.Served) (p : PortId) : (h.claimResultNow p).1.Served := by
  unfold Hub.claimResultNow
  split
  · exact hs
  · split
    · exact (hs.endWait p (r := .expired) rfl).calm (Hub.setClaim_calm (by rw [Hub.endWait_port, if_pos rfl]; rfl))
    · exact hs
  · next claim => exact hs.calm (Hub.setClaim_calm (by rw [claim]; rfl))
  · next claim => exact hs.calm (Hub.setClaim_calm (by rw [claim]; rfl))

theorem Hub.Served.claimCancelNow (hs : h.Served) (p : PortId) : (h.claimCancelNow p).1.Served := by
  unfold Hub.claimCancelNow
  split
  · exact hs.endWait p rfl
  · next claim => exact hs.calm (Hub.setClaim_calm (by rw [claim]; rfl))
  · next claim => exact hs.calm (Hub.setClaim_calm (by rw [claim]; rfl))
  · exact hs

theorem Hub.Served.endPreemptWith (hs : h.Served) (p : PortId) (v : Urgent) : (h.endPreemptWith p v).1.Served := by
  unfold Hub.endPreemptWith
  dsimp only
  split
  · exact hs
  · split
    · exact hs
    · split
      · exact hs
      · exact hs.endService p v

theorem Hub.Served.endPreemptNow (hs : h.Served) (p : PortId) : (h.endPreemptNow p).1.Served := by
  unfold Hub.endPreemptNow
  split
  · exact hs.endPreemptWith ..
  · exact hs.endPreemptWith ..
  · exact hs

/-- A request that leaves the hub alone or else does something calm. -/
theorem Hub.Calm.of_eq_or {R : Hub → Prop} {g : Hub} (calm : ∀ {g}, R g → h.Calm g) (x : g = h ∨ R g) :
    h.Calm g :=
  x.elim (fun e => e ▸ .refl) calm

/-- A request behind its session and form checks is served where its body is. -/
theorem Hub.Served.session_form (hs : h.Served) {k : ReqKind} {α : Type} {args : Option α}
    {body : α → Hub × Reply} (taken : sessionRefusal k (h.port p).state = none → ∀ a, (body a).1.Served) :
    (h.session k p (h.form args body)).1.Served :=
  Hub.session_hub hs fun session => Hub.form_hub hs fun a _ => taken session a

theorem Hub.Served.session_handled (hs : h.Served) {k : ReqKind} {α : Type} {accepts : Place → Bool}
    {payload : List Word} {args : Word → List Word → Option α} {body : FrameId → Context → α → Hub × Reply}
    (taken : sessionRefusal k (h.port p).state = none → ∀ i c a, h.ctx i = some c → accepts c.place = true →
      (body i c a).1.Served) : (h.session k p (h.handled accepts payload args body)).1.Served :=
  Hub.session_hub hs fun session => Hub.handled_hub hs fun i c _ _ a used own _ => taken session i c a used own

/-- The body of every request. -/
theorem request_served (hs : h.Served) (filed : h.Filed) {i : Instr} {r : Request} (e : requestOf i = some (p, r)) :
    (bodyOf h i).1.Served := by
  cases i
  case join => exact hs.session_form fun _ t => hs.calm (h.joinWith_calm _ t)
  case leave p _ _ =>
    refine hs.session_form fun _ _ => ?_
    split
    · exact hs.calm (h.endSession_calm p)
    · exact hs
  case renew => exact hs.session_form fun _ _ => hs
  case status => exact hs.session_form fun _ _ => hs
  case hubInfo => exact hs.session_form fun _ _ => hs
  case subscribe => exact hs.session_form fun _ m => hs.calm (h.setSubscription_calm _ m)
  case parkOpen =>
    exact hs.session_form fun on a => hs.calm (.of_eq_or Hub.Opens.calm
      (Hub.parkOpenWith_opens (online_of_sessionRefusal on (by decide)) a))
  case parkWrite =>
    exact hs.session_handled fun on _ _ a used own => hs.calm (.of_eq_or Hub.Writes.calm
      (Hub.parkWriteWith_writes (online_of_sessionRefusal on (by decide)) used own a))
  case parkClose => exact hs.session_handled fun _ i c _ _ _ => hs.parkCloseWith i c
  case parkAbort =>
    exact hs.session_handled fun _ _ _ _ _ _ => hs.calm ((Hub.updPort_calm rfl).trans (Hub.freeFrame_calm ..))
  case claim => exact hs.session_form fun _ m => hs.calm (h.claimWith_calm _ m)
  case readImage => exact hs.session_handled fun _ i c a _ _ => hs.calm (h.readImageWith_calm i c a)
  case writeImage =>
    exact hs.session_handled fun on _ _ a used own => hs.calm (.of_eq_or Hub.Writes.calm
      (Hub.writeImageWith_writes (online_of_sessionRefusal on (by decide)) used own a))
  case edit => exact hs.session_handled fun _ _ _ f _ own => hs.calm (Hub.editWith_calm own f)
  case returnFrame => exact hs.session_handled fun _ i c _ _ _ => hs.returnWith _ i c
  case repark => exact hs.session_handled fun _ i _ _ _ _ => hs.settleChecked i _ .parked
  case retire =>
    exact hs.session_handled fun _ _ _ _ _ _ => hs.calm ((Hub.updPort_calm rfl).trans (Hub.freeFrame_calm ..))
  case claimWait => exact hs.session_form fun _ a => hs.claimWaitWith filed _ a
  case claimResult => exact hs.session_form fun _ _ => hs.claimResultNow _
  case claimCancel => exact hs.session_form fun _ _ => hs.claimCancelNow _
  case suspend => exact hs.session_handled fun _ i _ _ _ _ => hs.calm (h.suspendWith_calm _ i)
  case resumeTop => exact hs.session_form fun _ _ => hs.calm (h.resumeTopNow_calm _)
  case preempt => exact hs.session_form fun _ a => hs.calm (h.preemptWith_calm _ a)
  case takePreempt => exact hs.session_form fun _ _ => hs.calm (h.takePreemptNow_calm _)
  case endPreempt => exact hs.session_form fun _ _ => hs.endPreemptNow _
  case isolationList => exact hs.session_form fun _ _ => hs
  case inspect => exact hs.session_handled fun _ i c a _ _ => hs.calm (h.inspectWith_calm i c a)
  case isolationWrite =>
    exact hs.session_handled fun _ _ _ a used own => hs.calm (.of_eq_or Hub.Writes.calm
      (Hub.isolationWriteWith_writes used own a))
  case repair => exact hs.session_handled fun _ i c a _ _ => hs.repairWith i c a
  case discard =>
    exact hs.session_handled fun _ i _ _ _ _ => hs.calm
      ((h.with_isolation_calm (h.isolation.erase i)).trans (Hub.freeFrame_calm ..))
  case noticeRead => exact hs.session_form fun _ n => hs.calm (h.noticeReadWith_calm _ n.toNat)
  case classSet => exact hs.session_form fun _ a => hs.calm (h.classSetWith_calm a)
  case classGet => exact hs.session_form fun _ _ => hs
  all_goals cases e

end Requests

/-! ### The link and the events -/

section Events
variable {s : State} (hs : s.hub.Served) (p : PortId)
include hs

theorem Hub.Served.breakPort : (s.breakPort p).hub.Served := by
  unfold State.breakPort
  dsimp only
  split
  · exact hs.fence p .brk
  · exact hs.calm (Hub.updPort_calm (f := fun x => { x with state := .offline, notices := [] }) rfl)

theorem Hub.Served.receive (header : Word) (rest : List Word) : (s.receive p header rest).hub.Served := by
  unfold State.receive State.linkCheck
  dsimp only
  split
  · exact hs
  · split
    · exact hs
    · split
      · exact hs
      · split
        · exact hs
        · rw [State.checkedFrame_hub]
          exact hs.calm (s.hub.restartLease_calm p)

theorem Hub.Served.window (hsi : List Word) : (s.window p hsi).hub.Served := by
  unfold State.window
  dsimp only
  split
  · rw [State.endWindow_hub]
    exact hs
  · split
    · exact Hub.Served.breakPort (s := s.sendWindow p hsi.length) hs p
    · exact Hub.Served.receive (s := s.sendWindow p hsi.length) hs p _ _

theorem Hub.Served.expireLease : (s.expireLease p).hub.Served := by
  unfold State.expireLease
  split
  · exact hs.fence p .lease
  · exact hs

theorem Hub.Served.expireWait : (s.expireWait p).hub.Served := by
  unfold State.expireWait
  split
  · exact hs.endWait p rfl
  · exact hs

theorem Hub.Served.expireGrace : (s.expireGrace p).hub.Served := by
  unfold State.expireGrace
  split
  · exact hs.calm (s.hub.lapse_calm ..)
  · exact hs

omit p in
theorem Hub.Served.promoteBand (k : ClassId) (b : Prio) : (s.promoteBand k b).hub.Served :=
  hs.calm (s.hub.promote_calm k b)

omit p in
theorem foldl_served {α : Type} {f : State → α → State}
    (hf : ∀ {s : State}, s.hub.Served → ∀ a, (f s a).hub.Served) (l : List α) : (l.foldl f s).hub.Served := by
  induction l generalizing s with
  | nil => exact hs
  | cons a l ih => exact ih (hf hs a)

omit p in
theorem Hub.Served.takeDue : s.takeDue.hub.Served :=
  foldl_served (foldl_served (foldl_served (foldl_served hs
    (fun hs k => ((hs.promoteBand k 2).promoteBand k 1).promoteBand k 0) _)
    (fun hs => hs.expireWait) _) (fun hs => hs.expireGrace) _) (fun hs => hs.expireLease) _

end Events

/-- Every command but hub reset. -/
theorem exec_served {i : Instr} {s t : State} (filed : s.hub.Filed) (hs : s.hub.Served) (e : exec i s = .next t)
    (hi : i ≠ .hubReset) : t.hub.Served := by
  cases hr : requestOf i with
  | some x =>
    obtain ⟨p, r⟩ := x
    rw [exec_request hr] at e
    rcases State.admission_hub e with h | h
    · rw [h]; exact hs
    · rw [h]; exact request_served hs filed hr
  | none =>
    cases i <;> simp only [requestOf, reduceCtorEq] at hr
    case requestFrame p hsi =>
      simp only [exec, execRequestFrame] at e
      split at e <;> cases e
      · exact hs.window p hsi
      · exact hs
    case readWindow p n =>
      simp only [exec, execReadWindow] at e
      split at e <;> cases e
      · rw [State.endWindow_hub]; exact hs
      · exact hs
    case breakFrame p =>
      simp only [exec, execBreak] at e
      split at e <;> cases e
      · exact Hub.Served.breakPort (s := s.sendWindow p 1) hs p
      · exact hs
    case hubReset => exact absurd rfl hi
    case hubReady => cases e; exact hs
    case timebaseTick =>
      simp only [exec, execTimebaseTick] at e
      split at e <;> cases e
      · exact hs
      · exact hs.takeDue.calm (Hub.tick_calm _)
    case leaseExpiry p => cases e; exact hs.expireLease p
    case waitExpiry p => cases e; exact hs.expireWait p
    case graceExpiry p => cases e; exact hs.expireGrace p
    case agingPromotion k b => cases e; exact hs.promoteBand k b
    case fault b pos v =>
      simp only [exec, execFault] at e
      split at e <;> cases e
      · exact hs
      · exact hs.calm Hub.Writes.strike.calm

theorem Hub.reset_served : Hub.reset.Served where
  waits := ⟨List.nodup_nil, fun q => by
    rw [Hub.reset_port]
    exact iff_of_false List.not_mem_nil nofun⟩
  apart i k _ q m waiting := by
    rw [Hub.reset_port] at waiting
    cases waiting

end Sys2Proof.Machine

/-- Settles O57: each request and event leaves the law standing, a RETURN by ending the wait of its own port. -/
theorem stepsLeaveNoClaimWaitingBesideItsFrame : Obligations.StepsLeaveNoClaimWaitingBesideItsFrame := by
  intro s t filed waits missed e
  have hs := s.hub.served_iff.mpr ⟨waits, missed⟩
  refine t.hub.served_iff.mp ?_
  unfold step at e
  split at e
  · cases e; exact hs
  · next i rest _ =>
    by_cases hi : i = .hubReset
    · subst hi; cases e; exact Hub.reset_served
    · exact exec_served (s := { s with pending := rest }) filed hs e hi
end

section
/-!
Waiting claims: CLAIM_WAIT (R84 to R86), CLAIM_RESULT (R93) and CLAIM_CANCEL (R94) by the claim record, and the
expiries of the wait and grace timers (R91, R113).
-/
open Sys2Proof Sys2Proof.Machine
namespace Sys2Proof.Machine

/-! ### A port and the Wait List replaced -/

section Waits
variable {h : Hub} {p : PortId}

theorem Hub.updPort_sameBeyond (h : Hub) (p : PortId) (f : Port → Port) :
    h.SameBeyond (h.updPort p f) { ports := (· = p) } where
  frames _ _ := rfl
  ports q hq := by rw [Hub.updPort_port, if_neg hq]
  classes _ _ := rfl
  blocks _ _ := rfl
  words _ _ := rfl
  waitList _ := rfl
  isolation _ := rfl

theorem Hub.SameBeyond.withWaitList {g : Hub} {x : Reach} (same : h.SameBeyond g x) (l : List PortId) :
    h.SameBeyond { g with waitList := l } { x with waitList := True } where
  frames := same.frames
  ports := same.ports
  classes := same.classes
  blocks := same.blocks
  words := same.words
  waitList hw := absurd trivial hw
  isolation := same.isolation

/-- A wait that ends changes its record and the Wait List alone (R91, R94). -/
theorem Hub.endWait_ends (h : Hub) (p : PortId) (r : ClaimRec) :
    (h.endWait p r).port p = { h.port p with claim := r } ∧ (h.endWait p r).waitList = h.waitList.erase p ∧
      h.SameBeyond (h.endWait p r) { ports := (· = p), waitList := True } :=
  ⟨by rw [Hub.endWait_port, if_pos rfl], rfl, (h.updPort_sameBeyond p _).withWaitList _⟩

/-- A wait that begins changes its record and the Wait List alone (R86). -/
theorem Hub.beginWait_begins (h : Hub) (p : PortId) (m : ClassSet) (timeout : Nat) :
    (h.beginWait p m timeout).port p = { h.port p with claim := .waiting m timeout } ∧
      (h.beginWait p m timeout).waitList = h.waitList ++ [p] ∧
      h.SameBeyond (h.beginWait p m timeout) { ports := (· = p), waitList := True } :=
  ⟨(Hub.with_waitList_port _ _ _).trans (by rw [Hub.updPort_port, if_pos rfl]), rfl,
    (h.updPort_sameBeyond p _).withWaitList _⟩

/-- A result that is read leaves the record NONE, and changes nothing else (R93, R94). -/
theorem Hub.setClaim_clears (h : Hub) (p : PortId) (r : ClaimRec) :
    (h.setClaim p r).port p = { h.port p with claim := r } ∧ h.SameBeyond (h.setClaim p r) { ports := (· = p) } :=
  ⟨(Hub.updPort_port ..).trans (if_pos rfl), h.updPort_sameBeyond p _⟩

/-! ### CLAIM_WAIT (R84 to R86) -/

/-- The fields of a mask word with a timeout in its upper half (R180). -/
theorem maskWord_fields (m : ClassSet) (u : BitVec 16) : clearIn (maskWord m u) 0x0000FF00#32 = true ∧
    bits (maskWord m u) 0 8 = m ∧ bits (maskWord m u) 16 16 = u := by
  refine ⟨?_, ?_, ?_⟩
  · rw [clearIn, maskWord, show (0x0000FF00#32) = 0#16 ++ 0xFF#8 ++ 0#8 from rfl, BitVec.and_append,
      BitVec.and_append]
    simp only [BitVec.zero_and, BitVec.and_zero]
    rfl
  · rw [bits, maskWord, BitVec.extractLsb'_append_eq_of_add_le (by decide), BitVec.extractLsb'_eq_self]
  · rw [bits, maskWord, BitVec.extractLsb'_append_eq_of_le (by decide), BitVec.extractLsb'_append_eq_of_le (by decide),
      BitVec.extractLsb'_eq_self]

/-- The word of a CLAIM_WAIT gives back its class mask and timeout (R180). -/
theorem readMaskTimeout_maskWord (m : ClassSet) {timeout : Nat} (short : timeout < 65536) :
    readMaskTimeout [maskWord m (BitVec.ofNat 16 timeout)] = some (m, timeout) := by
  obtain ⟨clear, mask, upper⟩ := maskWord_fields m (BitVec.ofNat 16 timeout)
  rw [readMaskTimeout, clear, mask, upper, if_pos rfl, toNat_ofNat_of_lt short]

theorem bodyOf_claimWait {s : State} (on : s.hub.online p = true) (tag : Tag) (m : ClassSet) {timeout : Nat}
    (short : timeout < 65536) :
    bodyOf s.hub (.claimWait p tag [maskWord m (BitVec.ofNat 16 timeout)]) = s.hub.claimWaitWith p (m, timeout) := by
  show s.hub.session .claimWait p (s.hub.form (readMaskTimeout _) (s.hub.claimWaitWith p)) = _
  rw [Hub.session_online on, readMaskTimeout_maskWord m short]
  rfl

theorem waitPeriod_eq_false_iff (n : Nat) : waitPeriod n = false ↔ n < 1 ∨ 60000 < n := by
  rw [waitPeriod, decide_eq_false_iff_not, not_and_or, Nat.not_le, Nat.not_le]

section Conditions
variable {m : ClassSet} {timeout : Nat}

theorem Hub.claimWaitWith_badValue (bad : m = 0 ∨ waitPeriod timeout = false) :
    h.claimWaitWith p (m, timeout) = (h, .bare .badValue) := if_pos bad

variable (good : ¬ (m = 0 ∨ waitPeriod timeout = false))
include good

theorem Hub.claimWaitWith_holdFull (full : 4 ≤ (h.port p).holdCount) :
    h.claimWaitWith p (m, timeout) = (h, .bare .holdFull) := (if_neg good).trans (if_pos full)

theorem Hub.claimWaitWith_waitExists (room : ¬ 4 ≤ (h.port p).holdCount) (placed : (h.port p).claim ≠ .none) :
    h.claimWaitWith p (m, timeout) = (h, .bare .waitExists) :=
  ((if_neg good).trans (if_neg room)).trans (if_pos placed)

variable (room : ¬ 4 ≤ (h.port p).holdCount) (idle : ¬ (h.port p).claim ≠ .none)
include room idle

theorem Hub.claimWaitWith_waits (unfound : h.claimBest p m = none) :
    h.claimWaitWith p (m, timeout) = (h.beginWait p m timeout, .bare .waiting) :=
  ((if_neg good).trans ((if_neg room).trans (if_neg idle))).trans (by rw [unfound])

theorem Hub.claimWaitWith_taken {g : Hub} {ws : List Word} (best : h.claimBest p m = some (g, ws)) :
    h.claimWaitWith p (m, timeout) = (g, { result := .granted, payload := ws }) :=
  ((if_neg good).trans ((if_neg room).trans (if_neg idle))).trans (by rw [best])

end Conditions

/-! ### CLAIM_RESULT and CLAIM_CANCEL (R93, R94) -/

theorem bodyOf_claimResult {s : State} (on : s.hub.online p = true) (tag : Tag) :
    bodyOf s.hub (.claimResult p tag []) = s.hub.claimResultNow p := Hub.session_online on ..

theorem bodyOf_claimCancel {s : State} (on : s.hub.online p = true) (tag : Tag) :
    bodyOf s.hub (.claimCancel p tag []) = s.hub.claimCancelNow p := Hub.session_online on ..

end Waits

/-- A request command whose body is known is answered as that says. -/
theorem takes_body_eq {i : Instr} {s : State} {p : PortId} {r : Request} {g : Hub} {reply : Reply}
    {after : Hub → Prop} (hr : requestOf i = some (p, r)) (ha : Admitted i s)
    (hb : bodyOf s.hub i = (g, reply)) (hg : after g) : Takes i s reply after :=
  takes_body hr ha (by rw [hb]) (by rw [hb]; exact hg)

/-! ### The expiries (R91, R113) -/

/-- The lapse of a notice changes the two ports it is told to, and nothing else (R113). -/
theorem Hub.lapse_sameBeyond (h : Hub) (p : PortId) (n : Urgent) :
    h.SameBeyond (h.lapse p n) { ports := fun q => q = p ∨ q = n.requester } where
  frames _ _ := by simp [Hub.lapse]
  ports q hq := by
    obtain ⟨target, requester⟩ := not_or.mp hq
    simp [Hub.lapse, Hub.post_port, target, requester]
  classes _ _ := by simp [Hub.lapse]
  blocks _ _ := by simp [Hub.lapse]
  words _ _ := by simp [Hub.lapse]
  waitList _ := by simp [Hub.lapse]
  isolation _ := by simp [Hub.lapse]

theorem Hub.lapse_target {n : Urgent} {p : PortId} (other : n.requester ≠ p) (h : Hub) :
    (h.lapse p n).port p = ({ h.port p with latch := .clear } : Port).told [.preemptWithdrawn n.requester n.cls] := by
  simp [Hub.lapse, Hub.post_port, other.symm]

theorem Hub.lapse_requester {n : Urgent} {p : PortId} (other : n.requester ≠ p) (h : Hub) :
    (h.lapse p n).port n.requester = (h.port n.requester).told [.preemptExpired p n.cls] := by
  simp [Hub.lapse, Hub.post_port, other]

theorem State.expireWait_due {s : State} {p : PortId} {m : ClassSet} (due : (s.hub.port p).claim = .waiting m 0) :
    s.expireWait p = { s with hub := s.hub.endWait p .expired } :=
  if_pos (by rw [Port.waitDue, due]; rfl)

theorem State.expireWait_early {s : State} {p : PortId} (early : ∀ m, (s.hub.port p).claim ≠ .waiting m 0) :
    s.expireWait p = s := by
  refine if_neg fun due => ?_
  unfold Port.waitDue at due
  split at due
  · next m n claim => exact early m (by rw [claim, beq_iff_eq.mp due])
  · cases due

theorem State.expireGrace_due {s : State} {p : PortId} {n : Urgent} (due : (s.hub.port p).latch = .pending n (some 0)) :
    s.expireGrace p = { s with hub := s.hub.lapse p n } := by
  simp only [State.expireGrace, due]

theorem State.expireGrace_early {s : State} {p : PortId} (early : ∀ n, (s.hub.port p).latch ≠ .pending n (some 0)) :
    s.expireGrace p = s := by
  unfold State.expireGrace
  split
  · next n due => exact absurd due (early n)
  · rfl

end Sys2Proof.Machine

/-- Settles O22: past its refusals a CLAIM_WAIT is the selection of R62, and waits where that finds nothing. -/
theorem claimWaitTakesAtOnceOrWaits : Obligations.ClaimWaitTakesAtOnceOrWaits := by
  intro s p tag m timeout filed on short i x admitted
  have hb : bodyOf s.hub i = s.hub.claimWaitWith p (m, timeout) := bodyOf_claimWait on tag m short
  by_cases bad : m = 0 ∨ timeout < 1 ∨ 60000 < timeout
  · rw [if_pos bad]
    rw [← waitPeriod_eq_false_iff] at bad
    exact refused_body rfl admitted (hb.trans (Hub.claimWaitWith_badValue bad))
  · rw [if_neg bad]
    rw [← waitPeriod_eq_false_iff] at bad
    split_ifs with full placed
    · exact refused_body rfl admitted (hb.trans (Hub.claimWaitWith_holdFull bad full))
    · exact refused_body rfl admitted (hb.trans (Hub.claimWaitWith_waitExists bad full placed))
    · rcases Hub.claimBest_cases filed p m with ⟨ineligible, unfound⟩ | ⟨j, c, best, used, taken⟩
      · have waits := hb.trans (Hub.claimWaitWith_waits bad full placed unfound)
        exact .inr ⟨ineligible, takes_body_eq rfl admitted waits (s.hub.beginWait_begins p m timeout)⟩
      · have takes := hb.trans (Hub.claimWaitWith_taken bad full placed taken)
        exact .inl ⟨j, c, best, used, takes_body_eq rfl admitted takes (s.hub.claimFrame_claims p j c)⟩

/-- Settles O44: each expiry that is due is the end of its record, and one that is not does nothing. -/
theorem waitAndGraceExpiriesEndTheirRecords : Obligations.WaitAndGraceExpiriesEndTheirRecords := by
  intro s p x
  refine ⟨fun m due => ?_, fun early => ?_, fun n due other => ?_, fun early => ?_⟩
  · exact ⟨_, congrArg Host.Outcome.next (State.expireWait_due due), rfl, s.hub.endWait_ends p .expired⟩
  · exact congrArg Host.Outcome.next (State.expireWait_early early)
  · exact ⟨_, congrArg Host.Outcome.next (State.expireGrace_due due), rfl, Hub.lapse_target other _,
      Hub.lapse_requester other _, s.hub.lapse_sameBeyond p n⟩
  · exact congrArg Host.Outcome.next (State.expireGrace_early early)

/-- Settles O23: both requests go by the claim record, and leave a result that is read or a wait cancelled at NONE. -/
theorem claimResultAndCancelAnswerByRecord : Obligations.ClaimResultAndCancelAnswerByRecord := by
  intro s p tag on x cleared
  have read : cleared (s.hub.setClaim p .none) := s.hub.setClaim_clears p .none
  refine ⟨fun admitted => ?_, fun admitted => ?_⟩
  · have hb := bodyOf_claimResult on tag
    unfold Hub.claimResultNow at hb
    cases claim : x.claim with
    | none => exact refused_body rfl admitted (by rw [hb, claim])
    | waiting m n =>
      intro left
      exact takes_body_eq rfl admitted (by rw [hb, claim]; exact if_neg (Nat.ne_of_gt left)) rfl
    | granted hd => exact takes_body_eq rfl admitted (by rw [hb, claim]) read
    | expired => exact takes_body_eq rfl admitted (by rw [hb, claim]) read
  · have hb := bodyOf_claimCancel on tag
    unfold Hub.claimCancelNow at hb
    cases claim : x.claim with
    | none => exact refused_body rfl admitted (by rw [hb, claim])
    | waiting m n => exact takes_body_eq rfl admitted (by rw [hb, claim]) (s.hub.endWait_ends p .none)
    | granted hd => exact takes_body_eq rfl admitted (by rw [hb, claim]) read
    | expired => exact takes_body_eq rfl admitted (by rw [hb, claim]) read
end

section
/-!
The suspension stack: SUSPEND (R98, R99) and RESUME_TOP (R100, R101). Both move one frame between the hold set and the
stack of one port.
-/
open Sys2Proof Sys2Proof.Machine
namespace Sys2Proof.Machine

section Stacks
variable {h : Hub} {p : PortId} {j : FrameId} {c : Context}

/-- A frame that leaves one collection of a port (`leave`) and enters another (`enter`) with its context replaced: that
frame and that port change, and nothing else does. -/
theorem Hub.moveWithin_moves (h : Hub) (p : PortId) (j : FrameId) (d : Context) (leave enter : Port → Port) :
    let g := ((h.updPort p leave).putCtx j d).updPort p enter
    g.frame j = { h.frame j with ctx := some d } ∧ g.port p = enter (leave (h.port p)) ∧
      h.SameBeyond g { frames := (· = j), ports := (· = p) } := by
  refine ⟨by simp, by simp, fun i hi => ?_, fun q hq => ?_, fun _ _ => rfl, fun _ _ => rfl, fun _ _ => rfl,
    fun _ => rfl, fun _ => rfl⟩
  · rw [Hub.updPort_frame, Hub.putCtx_frame, if_neg hi, Hub.updPort_frame]
  · rw [Hub.updPort_port, if_neg hq, Hub.putCtx_port, Hub.updPort_port, if_neg hq]

/-! ### SUSPEND (R98, R99) -/

theorem bodyOf_suspend {s : State} {m : Bool} (on : s.hub.online p = true) (tag : Tag) (used : s.hub.ctx j = some c)
    (place : c.place = .held p m) :
    bodyOf s.hub (.suspend p tag [s.hub.handleWord j 0]) = s.hub.suspendWith p j := by
  have hb := bodyOf_handled (i := .suspend p tag [s.hub.handleWord j 0]) on used (Place.held_isHeldOf place) rfl
  rwa [readHandleOnly_handleWord] at hb

/-- A frame suspended leaves the hold set and is pushed onto the stack as VOLUNTARY, and nothing else changes (R99). -/
theorem Hub.pushVoluntary_pushes (used : h.ctx j = some c) :
    (h.pushVoluntary p j).frame j = { h.frame j with ctx := some { c with place := .stacked p } } ∧
      (h.pushVoluntary p j).port p = { h.port p with
        hold := (h.port p).hold.erase j, stack := { frame := j, tag := .voluntary } :: (h.port p).stack } ∧
      h.SameBeyond (h.pushVoluntary p j) { frames := (· = j), ports := (· = p) } := by
  have stacked : (h.leaveHold p j).stackFrame p j = (h.leaveHold p j).putCtx j { c with place := .stacked p } := by
    simp [Hub.stackFrame, Hub.leaveHold, used]
  rw [Hub.pushVoluntary, stacked]
  exact h.moveWithin_moves p j _ _ _

theorem Hub.suspendWith_stackFull (full : 8 ≤ (h.port p).stack.length) :
    h.suspendWith p j = (h, .bare .stackFull) := if_pos full

theorem Hub.suspendWith_taken (used : h.ctx j = some c) (room : (h.port p).stack.length < 8) :
    h.suspendWith p j = (h.pushVoluntary p j, .okWith [valueWord ((h.port p).stack.length + 1)]) := by
  obtain ⟨-, port, -⟩ := Hub.pushVoluntary_pushes (p := p) used
  refine (if_neg (Nat.not_le.mpr room)).trans ?_
  dsimp only
  rw [port, List.length_cons]

/-! ### RESUME_TOP (R100, R101) -/

theorem bodyOf_resumeTop {s : State} (on : s.hub.online p = true) (tag : Tag) :
    bodyOf s.hub (.resumeTop p tag []) = s.hub.resumeTopNow p := Hub.session_online on ..

/-- The header record of a frame that has entered a hold set (R60, R67). -/
theorem Hub.enterHold_record (h : Hub) (j : FrameId) (c : Context) (p : PortId) : (h.enterHold j c p).record j =
    headerRecord (h.handle j) { c with place := .held p false } c.control.base := by
  simp [Hub.enterHold, Hub.record, Hub.recordOf, Hub.effOf, Context.eff]

theorem Hub.resumeTopNow_stackEmpty (empty : (h.port p).stack = []) :
    h.resumeTopNow p = (h, .bare .stackEmpty) := by rw [Hub.resumeTopNow, empty]

section Top
variable {e : StackEntry} {rest : List StackEntry} (top : (h.port p).stack = e :: rest)
include top

theorem Hub.resumeTopNow_preemptLevel (group : e.tag = .preempt) :
    h.resumeTopNow p = (h, .bare .preemptLevel) := by
  rw [Hub.resumeTopNow, top]
  exact if_pos group

variable (voluntary : e.tag = .voluntary)
include voluntary

theorem Hub.resumeTopNow_holdFull (full : 4 ≤ (h.port p).holdCount) :
    h.resumeTopNow p = (h, .bare .holdFull) := by
  rw [Hub.resumeTopNow, top]
  exact (if_neg (by simp [voluntary])).trans (if_pos full)

/-- A RESUME_TOP that is taken pops the top entry, and its frame enters the hold set (R101). -/
theorem Hub.resumeTopNow_taken (room : (h.port p).holdCount < 4) (used : h.ctx e.frame = some c) :
    h.resumeTopNow p = ((h.updPort p (fun x => { x with stack := rest })).enterHold e.frame c p,
      .okWith (headerRecord (h.handle e.frame) { c with place := .held p false } c.control.base)) := by
  have resumed : (h.updPort p (fun x => { x with stack := rest })).resumeFrame p e.frame =
      (h.updPort p (fun x => { x with stack := rest })).enterHold e.frame c p := by
    rw [Hub.resumeFrame, Hub.ctx_updPort, used]
  rw [Hub.resumeTopNow, top]
  refine (if_neg (by simp [voluntary])).trans ((if_neg (Nat.not_le.mpr room)).trans ?_)
  dsimp only
  rw [resumed, Hub.enterHold_record, Hub.handle_updPort]

end Top

end Stacks

end Sys2Proof.Machine

/-- Settles O24: past its refusals each request moves one frame of the port, SUSPEND from the hold set to the top of the
stack and RESUME_TOP back. -/
theorem stackIsPushedAndPopped : Obligations.StackIsPushedAndPopped := by
  constructor
  · intro s p tag j c m on used place i x admitted
    have hb : bodyOf s.hub i = s.hub.suspendWith p j := bodyOf_suspend on tag used place
    exact ⟨fun full => refused_body rfl admitted (hb.trans (Hub.suspendWith_stackFull full)),
      fun room => takes_body_eq rfl admitted (hb.trans (Hub.suspendWith_taken used room))
        (Hub.pushVoluntary_pushes used)⟩
  · intro s p tag on i x admitted
    have hb : bodyOf s.hub i = s.hub.resumeTopNow p := bodyOf_resumeTop on tag
    refine ⟨fun empty => refused_body rfl admitted (hb.trans (Hub.resumeTopNow_stackEmpty empty)),
      fun e rest top => ⟨fun group => ?_, fun voluntary full => ?_, fun voluntary room c used _ => ?_⟩⟩
    · exact refused_body rfl admitted (hb.trans (Hub.resumeTopNow_preemptLevel top group))
    · exact refused_body rfl admitted (hb.trans (Hub.resumeTopNow_holdFull top voluntary full))
    · exact takes_body_eq rfl admitted (hb.trans (Hub.resumeTopNow_taken top voluntary room used))
        (s.hub.moveWithin_moves p e.frame _ _ _)
end

section
/-!
What one change and then another leave: a frame condition may be widened, and two are put together.
-/
open Sys2Proof Sys2Proof.Machine
namespace Sys2Proof.Machine

/-- Everything in the first reach is in the second. -/
structure Reach.Within (x z : Reach) : Prop where
  frames    : ∀ i, x.frames i → z.frames i := by simp
  ports     : ∀ p, x.ports p → z.ports p := by simp
  classes   : ∀ k, x.classes k → z.classes k := by simp
  blocks    : ∀ b, x.blocks b → z.blocks b := by simp
  words     : ∀ a, x.words a → z.words a := by simp
  waitList  : x.waitList → z.waitList := by simp
  isolation : x.isolation → z.isolation := by simp

section Reaches
variable {h g k : Hub} {x z : Reach}

theorem Hub.SameBeyond.refl (h : Hub) (z : Reach) : h.SameBeyond h z :=
  ⟨fun _ _ => rfl, fun _ _ => rfl, fun _ _ => rfl, fun _ _ => rfl, fun _ _ => rfl, fun _ => rfl, fun _ => rfl⟩

theorem Hub.SameBeyond.mono (same : h.SameBeyond g x) (w : x.Within z) : h.SameBeyond g z where
  frames i hi := same.frames i (mt (w.frames i) hi)
  ports q hq := same.ports q (mt (w.ports q) hq)
  classes l hl := same.classes l (mt (w.classes l) hl)
  blocks b hb := same.blocks b (mt (w.blocks b) hb)
  words a ha := same.words a (mt (w.words a) ha)
  waitList hw := same.waitList (mt w.waitList hw)
  isolation hi := same.isolation (mt w.isolation hi)

theorem Hub.SameBeyond.trans (a : h.SameBeyond g z) (b : g.SameBeyond k z) : h.SameBeyond k z where
  frames i hi := (b.frames i hi).trans (a.frames i hi)
  ports q hq := (b.ports q hq).trans (a.ports q hq)
  classes l hl := (b.classes l hl).trans (a.classes l hl)
  blocks d hd := (b.blocks d hd).trans (a.blocks d hd)
  words w hw := (b.words w hw).trans (a.words w hw)
  waitList hw := (b.waitList hw).trans (a.waitList hw)
  isolation hi := (b.isolation hi).trans (a.isolation hi)

end Reaches

end Sys2Proof.Machine
end

section
/-!
PREEMPT (R109, R110) by the latch of its target, and TAKE_PREEMPT (R115 to R118): the hold set is saved on the stack,
and then one class is claimed from as CLAIM does.
-/
open Sys2Proof Sys2Proof.Machine
namespace Sys2Proof.Machine

/-! ### PREEMPT (R109, R110) -/

/-- The word of a PREEMPT gives back its target and class (R180). -/
theorem readPreempt_preemptWord (t : PortId) (k : ClassId) : readPreempt [preemptWord t k] = some (t, k) := by
  have clear : clearIn (preemptWord t k) 0xFFFFF8FC#32 = true := by
    rw [clearIn, preemptWord, show (0xFFFFF8FC#32) = 0x1FFFFF#21 ++ 0#3 ++ 0x3F#6 ++ 0#2 from rfl]
    iterate 3 rw [BitVec.and_append]
    simp only [BitVec.zero_and, BitVec.and_zero]
    rfl
  have target : bits (preemptWord t k) 0 2 = BitVec.ofFin t := by
    rw [bits, preemptWord, BitVec.extractLsb'_append_eq_of_add_le (by decide), BitVec.extractLsb'_eq_self]
  have cls : bits (preemptWord t k) 8 3 = BitVec.ofFin k := by
    rw [bits, preemptWord, BitVec.extractLsb'_append_eq_of_le (by decide),
      BitVec.extractLsb'_append_eq_of_le (by decide), BitVec.extractLsb'_append_eq_of_add_le (by decide),
      BitVec.extractLsb'_eq_self]
  rw [readPreempt, clear, target, cls, if_pos rfl]

section Preempt
variable {h : Hub} {p t : PortId} {k : ClassId}

theorem bodyOf_preempt {s : State} (on : s.hub.online p = true) (tag : Tag) :
    bodyOf s.hub (.preempt p tag [preemptWord t k]) = s.hub.preemptWith p (t, k) := by
  show s.hub.session .preempt p (s.hub.form (readPreempt _) (s.hub.preemptWith p)) = _
  rw [Hub.session_online on, readPreempt_preemptWord]
  rfl

theorem Hub.preemptWith_self : h.preemptWith p (p, k) = (h, .bare .self) := if_pos rfl

variable (other : t ≠ p)
include other

theorem Hub.preemptWith_targetOffline (off : h.online t = false) :
    h.preemptWith p (t, k) = (h, .bare .targetOffline) := (if_neg other).trans (if_pos off)

theorem Hub.preemptWith_classDisabled (on : h.online t ≠ false) (disabled : (h.cls k).enabled = false) :
    h.preemptWith p (t, k) = (h, .bare .classDisabled) :=
  (if_neg other).trans ((if_neg on).trans (if_pos disabled))

theorem Hub.preemptWith_posted (on : h.online t ≠ false) (enabled : (h.cls k).enabled ≠ false) :
    h.preemptWith p (t, k) = h.postUrgent t { requester := p, cls := k } :=
  (if_neg other).trans ((if_neg on).trans (if_neg enabled))

end Preempt

/-- A latch that changes is all that changes. -/
theorem Hub.setLatch_changes (h : Hub) (p : PortId) (l : Latch) :
    (h.setLatch p l).port p = { h.port p with latch := l } ∧ h.SameBeyond (h.setLatch p l) { ports := (· = p) } :=
  ⟨(Hub.setLatch_port ..).trans (if_pos rfl), h.updPort_sameBeyond p _⟩

/-! ### TAKE_PREEMPT: the save and the begin of the service (R116, R117) -/

section Saves
variable {h : Hub} {p : PortId} {j : FrameId} {c : Context}

theorem Hub.stackFrame_sameBeyond (h : Hub) (p : PortId) (i : FrameId) :
    h.SameBeyond (h.stackFrame p i) { frames := (· = i) } := by
  unfold Hub.stackFrame
  split
  · exact h.putCtx_sameBeyond i _
  · exact .refl h _

theorem Hub.foldl_stackFrame_sameBeyond (h : Hub) (p : PortId) (l : List FrameId) :
    h.SameBeyond (l.foldl (fun g i => g.stackFrame p i) h) { frames := (· ∈ l) } := by
  induction l generalizing h with
  | nil => exact .refl h _
  | cons i l ih =>
    exact ((h.stackFrame_sameBeyond p i).mono { frames := by simp }).trans
      ((ih (h.stackFrame p i)).mono { frames := fun _ => List.mem_cons_of_mem i })

theorem Hub.foldl_stackFrame_gen (h : Hub) (p : PortId) (l : List FrameId) (j : FrameId) :
    ((l.foldl (fun g i => g.stackFrame p i) h).frame j).gen = (h.frame j).gen := by
  have kept : ∀ (g : Hub) i, ((g.stackFrame p i).frame j).gen = (g.frame j).gen := fun g i => by
    unfold Hub.stackFrame
    split
    · rw [Hub.putCtx_frame]
      split
      · next e => rw [e]
      · rfl
    · rfl
  induction l generalizing h with
  | nil => rfl
  | cons i l ih => exact (ih _).trans (kept h i)

/-- A frame that is saved is STACKED, and keeps its generation and its other fields (R116). -/
theorem Hub.beginService_saved (held : j ∈ (h.port p).hold) (used : h.ctx j = some c) (n : Urgent) :
    (h.beginService p n).frame j = { h.frame j with ctx := some { c with place := .stacked p } } := by
  have frame : (h.beginService p n).frame j =
      ((h.port p).hold.foldl (fun g i => g.stackFrame p i) h).frame j := (Hub.post_rest ..).1 j
  have ctx := h.foldl_stackFrame_ctx p (h.port p).hold j
  rw [if_pos held, used] at ctx
  rw [frame]
  exact congrArg₂ Frame.mk (h.foldl_stackFrame_gen p _ j) ctx

/-- The save, the latch and the notice change the frames held and the two ports, and nothing else (R116, R117). -/
theorem Hub.beginService_sameBeyond (h : Hub) (p : PortId) (n : Urgent) : h.SameBeyond (h.beginService p n)
    { frames := (· ∈ (h.port p).hold), ports := fun q => q = p ∨ q = n.requester } := by
  refine ((h.foldl_stackFrame_sameBeyond p (h.port p).hold).mono ?saved).trans <|
    ((Hub.updPort_sameBeyond _ p _).mono ?emptied).trans <|
      (((h.saveHold p).setLatch_changes p (.serving n)).2.mono ?served).trans <|
        (((h.saveHold p).setLatch p (.serving n)).post_tells n.requester (.preemptTaken p n.cls)).2.mono ?told
  case saved => exact {}
  case emptied => exact { ports := fun _ => .inl }
  case served => exact { ports := fun _ => .inl }
  case told => exact { ports := fun _ => .inr }

/-- The port that takes a notice has its hold set on its stack, oldest lowest, and serves the notice (R116). -/
theorem Hub.beginService_port_self {n : Urgent} (other : n.requester ≠ p) : (h.beginService p n).port p =
    { h.port p with
      hold := [], latch := .serving n,
      stack := (h.port p).hold.reverse.map (fun i => { frame := i, tag := .preempt }) ++ (h.port p).stack } := by
  simp [Hub.beginService_port, Hub.setLatch_port, Hub.saveHold_port, savedEntries, other.symm]

theorem Hub.beginService_requester {n : Urgent} (other : n.requester ≠ p) :
    (h.beginService p n).port n.requester = (h.port n.requester).told [.preemptTaken p n.cls] := by
  simp [Hub.beginService_port, Hub.setLatch_port, Hub.saveHold_port, other]

/-! ### TAKE_PREEMPT: the claim into the emptied hold set (R118) -/

/-- Each frame is as before a save, or was HELD by its port and is STACKED. -/
theorem Hub.beginService_ctx_cases (filed : h.Filed) (p : PortId) (n : Urgent) (j : FrameId) :
    (h.beginService p n).ctx j = h.ctx j ∨ ∃ c m, h.ctx j = some c ∧ c.place = .held p m ∧
      (h.beginService p n).ctx j = some { c with place := .stacked p } := by
  by_cases held : j ∈ (h.port p).hold
  · obtain ⟨c, used, place⟩ := (Option.any_eq_true ..).mp ((filed.hold p j).mp held)
    obtain ⟨m, place⟩ : ∃ m, c.place = .held p m := by
      cases hp : c.place <;> simp_all [Place.isHeldOf]
    exact .inr ⟨c, m, used, place, congrArg Frame.ctx (Hub.beginService_saved held used n)⟩
  · exact .inl (congrArg Frame.ctx (Hub.beginService_frame held n))

/-- A save stacks no QUEUED frame, so the same frames are eligible. -/
theorem Hub.beginService_eligible (filed : h.Filed) (n : Urgent) (q : PortId) (m : ClassSet) (j : FrameId) :
    (h.beginService p n).Eligible q m j ↔ h.Eligible q m j := by
  rcases Hub.beginService_ctx_cases filed p n j with same | ⟨c, mark, used, place, saved⟩
  · simp only [Hub.Eligible, same]
  · simp [Hub.Eligible, used, place, saved, Place.isQueued]

/-- A frame HELD or STACKED has the effective priority of its base (R7). -/
theorem Hub.beginService_effOf (filed : h.Filed) (n : Urgent) (j : FrameId) :
    (h.beginService p n).effOf j = h.effOf j := by
  rcases Hub.beginService_ctx_cases filed p n j with same | ⟨c, mark, used, place, saved⟩
  · simp only [Hub.effOf, same]
  · simp only [Hub.effOf, used, saved, Context.eff, place]

theorem Hub.beginService_classOf (filed : h.Filed) (n : Urgent) (j : FrameId) :
    (h.beginService p n).classOf j = h.classOf j := by
  rcases Hub.beginService_ctx_cases filed p n j with same | ⟨c, mark, used, place, saved⟩
  · simp only [Hub.classOf, same]
  · simp only [Hub.classOf, used, saved]

/-- The frame claimed after a save is the best eligible one before it (R62). -/
theorem Hub.Best.of_beginService (filed : h.Filed) {n : Urgent} {q : PortId} {m : ClassSet}
    (best : (h.beginService p n).Best q m j) : h.Best q m j := by
  obtain ⟨eligible, highest, lowest, first⟩ := best
  simp only [Hub.beginService_eligible filed, Hub.beginService_effOf filed, Hub.beginService_classOf filed,
    Hub.beginService_cls] at eligible highest lowest first
  exact ⟨eligible, highest, lowest, first⟩

/-- An eligible frame is QUEUED, and so in no hold set. -/
theorem Hub.Eligible.not_held (filed : h.Filed) {q : PortId} {m : ClassSet} (el : h.Eligible q m j) :
    j ∉ (h.port p).hold := fun held => by
  obtain ⟨c, used, queued, -⟩ := el
  obtain ⟨d, stood, place⟩ := (Option.any_eq_true ..).mp ((filed.hold p j).mp held)
  obtain rfl : c = d := Option.some.inj (used.symm.trans stood)
  cases hp : c.place <;> simp_all [Place.isHeldOf, Place.isQueued]

/-- The class of an eligible frame is the one class of the mask. -/
theorem Context.cls_of_classMask {k : ClassId} (masked : c.inMask (1#8 <<< k.val) = true) : c.control.cls = k := by
  have hk := k.isLt
  have hc := c.control.cls.isLt
  simp only [Context.inMask, BitVec.getLsbD_shiftLeft, BitVec.getLsbD_one, Bool.and_eq_true, Bool.not_eq_true',
    decide_eq_true_eq, decide_eq_false_iff_not] at masked
  exact Fin.ext (by omega)

/-! ### TAKE_PREEMPT by the conditions of R115 -/

theorem bodyOf_takePreempt {s : State} (on : s.hub.online p = true) (tag : Tag) :
    bodyOf s.hub (.takePreempt p tag []) = s.hub.takePreemptNow p := Hub.session_online on ..

theorem Hub.takePreemptNow_notPending (idle : ∀ n g, (h.port p).latch ≠ .pending n g) :
    h.takePreemptNow p = (h, .bare .notPending) := by
  unfold Hub.takePreemptNow
  split
  · next latch => exact absurd latch (idle _ _)
  · rfl

variable {n : Urgent} {grace : Option Nat} (latch : (h.port p).latch = .pending n grace)
include latch

theorem Hub.takePreemptNow_stackFull (full : 8 < (h.port p).stack.length + (h.port p).hold.length) :
    h.takePreemptNow p = (h, .bare .stackFull) := by
  rw [Hub.takePreemptNow, latch]
  exact if_pos full

variable (room : (h.port p).stack.length + (h.port p).hold.length ≤ 8)
include room

theorem Hub.takePreemptNow_empty (unfound : (h.beginService p n).claimBest p (1#8 <<< n.cls.val) = none) :
    h.takePreemptNow p = (h.beginService p n, .okWith [noticeWord n, valueWord (h.port p).hold.length, 0]) := by
  rw [Hub.takePreemptNow, latch]
  refine (if_neg (Nat.not_lt.mpr room)).trans ?_
  dsimp only
  rw [classMask, unfound]
  rfl

theorem Hub.takePreemptNow_claims {g : Hub} {ws : List Word}
    (found : (h.beginService p n).claimBest p (1#8 <<< n.cls.val) = some (g, ws)) :
    h.takePreemptNow p = (g, .okWith (noticeWord n :: valueWord (h.port p).hold.length :: ws)) := by
  rw [Hub.takePreemptNow, latch]
  refine (if_neg (Nat.not_lt.mpr room)).trans ?_
  dsimp only
  rw [classMask, found]

end Saves

end Sys2Proof.Machine

/-- Settles O25: past the refusals of R109 a PREEMPT goes by the latch of its target. -/
theorem preemptIsAnsweredByTheTargetLatch : Obligations.PreemptIsAnsweredByTheTargetLatch := by
  intro s p target tag k on i x notice admitted
  have hb : bodyOf s.hub i = s.hub.preemptWith p (target, k) := bodyOf_preempt on tag
  by_cases own : target = p
  · rw [if_pos own]
    subst own
    exact refused_body rfl admitted (hb.trans Hub.preemptWith_self)
  by_cases off : s.hub.online target = false
  · rw [if_neg own, if_pos off]
    exact refused_body rfl admitted (hb.trans (Hub.preemptWith_targetOffline own off))
  by_cases disabled : (s.hub.cls k).enabled = false
  · rw [if_neg own, if_neg off, if_pos disabled]
    exact refused_body rfl admitted (hb.trans (Hub.preemptWith_classDisabled own off disabled))
  rw [if_neg own, if_neg off, if_neg disabled]
  rw [Hub.preemptWith_posted own off disabled, Hub.postUrgent] at hb
  cases latch : x.latch with
  | clear => exact takes_body_eq rfl admitted (by rw [hb, latch]; rfl) (s.hub.setLatch_changes target _)
  | pending n grace => exact refused_body rfl admitted (by rw [hb, latch])
  | serving v => exact takes_body_eq rfl admitted (by rw [hb, latch]) (s.hub.setLatch_changes target _)
  | servingPending v n => exact refused_body rfl admitted (by rw [hb, latch])

/-- Settles O26: past its refusals a TAKE_PREEMPT saves the hold set and begins its service, and then claims from the
one class as a CLAIM does. -/
theorem takePreemptSavesAndClaims : Obligations.TakePreemptSavesAndClaims := by
  intro s p tag filed on i x saved admitted
  have hb : bodyOf s.hub i = s.hub.takePreemptNow p := bodyOf_takePreempt on tag
  refine ⟨fun idle => refused_body rfl admitted (hb.trans (Hub.takePreemptNow_notPending idle)),
    fun n grace latch => ⟨fun full => ?_, ?_⟩⟩
  · exact refused_body rfl admitted (hb.trans (Hub.takePreemptNow_stackFull latch full))
  intro other room m common
  have began : (s.hub.beginService p n).Filed :=
    (Hub.filed_iff _).mpr (((Hub.filed_iff _).mp filed).beginService p n)
  have same := s.hub.beginService_sameBeyond p n
  rcases Hub.claimBest_cases began p m with ⟨ineligible, unfound⟩ | ⟨j, c, best, used, taken⟩
  · refine .inl ⟨fun j => mt (Hub.beginService_eligible filed n p m j).mpr (ineligible j),
      takes_body_eq rfl admitted (hb.trans (Hub.takePreemptNow_empty latch room unfound)) ?_⟩
    exact ⟨Hub.beginService_port_self other, Hub.beginService_requester other,
      fun j held c used => Hub.beginService_saved held used n, same.mono { frames := fun _ => .inl }⟩
  · have best' := best.of_beginService filed
    obtain ⟨d, stood, -, masked, -⟩ := best'.eligible
    have unheld : j ∉ x.hold := best'.eligible.not_held filed
    have frame : (s.hub.beginService p n).frame j = s.hub.frame j := Hub.beginService_frame unheld n
    obtain rfl : c = d := Option.some.inj (used.symm.trans ((congrArg Frame.ctx frame).trans stood))
    have cls : c.control.cls = n.cls := Context.cls_of_classMask masked
    have answer : (s.hub.beginService p n).claimAnswer p j c = s.hub.claimAnswer p j c := by
      simp only [Hub.claimAnswer, Hub.handle, frame, Hub.beginService_effOf filed]
    obtain ⟨claimed, queue, port, rest⟩ := (s.hub.beginService p n).claimFrame_claims p j c
    rw [answer] at taken
    refine .inr ⟨j, c, best', stood, takes_body_eq rfl admitted
      (hb.trans (Hub.takePreemptNow_claims latch room taken)) ⟨⟨?_, ?_, ?_, ?_⟩, ?_, ?_⟩⟩
    · rw [port, Hub.beginService_port_self other]
      rfl
    · exact (rest.ports _ other).trans (Hub.beginService_requester other)
    · intro l held d used
      have apart : l ≠ j := fun e => unheld (e ▸ held)
      exact (rest.frames l apart).trans (Hub.beginService_saved held used n)
    · refine (same.mono ?save).trans (rest.mono ?claim)
      case save => exact { frames := fun _ => .inl }
      case claim => exact
        { frames := fun _ e => .inr (List.mem_singleton.mpr e), ports := fun _ => .inl,
          classes := fun _ e => ⟨e.trans cls, List.cons_ne_nil _ _⟩ }
    · rw [claimed, frame]
    · rw [← cls, queue, Hub.beginService_cls]
end

section
/-!
END_PREEMPT by the conditions of R120: the refusals in their order, and what is left where none holds.
-/
open Sys2Proof Sys2Proof.Machine
namespace Sys2Proof.Machine

section EndPreempt
variable {h : Hub} {p : PortId}

theorem bodyOf_endPreempt {s : State} (on : s.hub.online p = true) (tag : Tag) :
    bodyOf s.hub (.endPreempt p tag []) = s.hub.endPreemptNow p := Hub.session_online on ..

/-! ### The preempt group (R97, R120) -/

theorem Port.mem_group {x : Port} {j : FrameId} :
    j ∈ x.group ↔ ∃ e ∈ x.stack, (e.tag == .preempt) = true ∧ e.frame = j := by
  simp [Port.group, and_assoc]

theorem Port.group_length (x : Port) : x.group.length = (x.stack.filter (fun e => e.tag == .preempt)).length := by
  simp [Port.group]

/-- The stack is nested when its top entry is VOLUNTARY and a PREEMPT entry lies below it (R120). -/
theorem Port.nested_iff (x : Port) : x.nested = true ↔
    ∃ e rest, x.stack = e :: rest ∧ e.tag = .voluntary ∧ ∃ f ∈ rest, (f.tag == .preempt) = true := by
  unfold Port.nested
  cases x.stack with
  | nil => simp
  | cons e rest => cases tag : e.tag <;> simp [tag]

theorem Hub.restorable_iff {j : FrameId} : h.restorable p j = true ↔ ∃ c, h.ctx j = some c ∧ c.allows p = true := by
  unfold Hub.restorable
  cases h.ctx j <;> simp

/-! ### The conditions of R120, in their order -/

theorem Hub.endPreemptNow_notServing (idle : (h.port p).latch.isServing = false) :
    h.endPreemptNow p = (h, .bare .notServing) := by
  unfold Hub.endPreemptNow
  cases latch : (h.port p).latch with
  | clear => rfl
  | pending n g => rfl
  | serving v => rw [latch] at idle; cases idle
  | servingPending v n => rw [latch] at idle; cases idle

theorem Hub.endPreemptNow_serves {v : Urgent}
    (serves : (h.port p).latch = .serving v ∨ ∃ n, (h.port p).latch = .servingPending v n) :
    h.endPreemptNow p = h.endPreemptWith p v := by
  rcases serves with latch | ⟨n, latch⟩ <;> rw [Hub.endPreemptNow, latch]

theorem Latch.served_of_isServing {l : Latch} (serves : l.isServing = true) :
    ∃ v, l = .serving v ∨ ∃ n, l = .servingPending v n := by
  cases l with
  | clear => cases serves
  | pending n g => cases serves
  | serving v => exact ⟨v, .inl rfl⟩
  | servingPending v n => exact ⟨v, .inr ⟨n, rfl⟩⟩

section Conditions
variable {v : Urgent}

theorem Hub.endPreemptWith_holding (holds : (h.port p).hold ≠ []) : h.endPreemptWith p v = (h, .bare .holding) :=
  if_pos holds

variable (empty : (h.port p).hold = [])
include empty

theorem Hub.endPreemptWith_nested (nested : (h.port p).nested = true) :
    h.endPreemptWith p v = (h, .bare .nested) :=
  (if_neg (not_not.mpr empty)).trans (if_pos nested)

variable (flat : ¬ (h.port p).nested = true)
include flat

theorem Hub.endPreemptWith_holdFull (waits : (h.port p).claim.isWaiting = true) (many : 4 ≤ (h.port p).group.length)
    (restorable : ∀ j ∈ (h.port p).group, h.restorable p j = true) :
    h.endPreemptWith p v = (h, .bare .holdFull) := by
  have full : ((h.port p).claim.isWaiting && decide (Config.holdMax ≤ (h.port p).group.length) &&
      (h.port p).group.all (h.restorable p)) = true := by
    rw [waits, decide_eq_true many, List.all_eq_true.mpr restorable]
    rfl
  exact ((if_neg (not_not.mpr empty)).trans (if_neg flat)).trans (if_pos full)

/-- An END_PREEMPT is taken when its port may keep fewer frames than its hold set has places beside a waiting claim. -/
theorem Hub.endPreemptWith_taken
    (room : (h.port p).claim.isWaiting = true → ((h.port p).group.filter (h.restorable p)).length < 4) :
    h.endPreemptWith p v =
      ((h.endService p v).hub, .okWith ((h.endService p v).payload h v (h.port p).latchAfter)) := by
  have fits : ¬ ((h.port p).claim.isWaiting && decide (Config.holdMax ≤ (h.port p).group.length) &&
      (h.port p).group.all (h.restorable p)) = true := by
    simp only [Bool.and_eq_true, decide_eq_true_eq, List.all_eq_true]
    rintro ⟨⟨waits, many⟩, restorable⟩
    have few := room waits
    rw [List.filter_eq_self.mpr restorable] at few
    exact Nat.not_lt.mpr many few
  exact ((if_neg (not_not.mpr empty)).trans (if_neg flat)).trans (if_neg fits)

end Conditions

end EndPreempt

end Sys2Proof.Machine

/-- Settles O27: the four conditions of R120 are tested in their order, each before anything changes. -/
theorem endPreemptIsRefusedInOrder : Obligations.EndPreemptIsRefusedInOrder := by
  intro s p tag on i x isPreempt admitted
  have hb : bodyOf s.hub i = s.hub.endPreemptNow p := bodyOf_endPreempt on tag
  refine ⟨fun idle => refused_body rfl admitted (hb.trans (Hub.endPreemptNow_notServing idle)), fun serves => ?_⟩
  obtain ⟨v, served⟩ := Latch.served_of_isServing serves
  rw [Hub.endPreemptNow_serves served] at hb
  refine ⟨fun holds => refused_body rfl admitted (hb.trans (Hub.endPreemptWith_holding holds)), fun empty => ?_⟩
  intro nested
  have nested_iff : x.nested = true ↔ nested := x.nested_iff
  refine ⟨fun deep => refused_body rfl admitted (hb.trans (Hub.endPreemptWith_nested empty (nested_iff.mpr deep))),
    fun flat waits four restorable => refused_body rfl admitted (hb.trans ?_)⟩
  refine Hub.endPreemptWith_holdFull empty (mt nested_iff.mp flat) waits ?_ fun j hj => ?_
  · rw [Port.group_length]
    exact four.ge
  · obtain ⟨e, he, tag, rfl⟩ := Port.mem_group.mp hj
    exact Hub.restorable_iff.mpr (restorable e he tag)
end

section
/-!
The dealing of END_PREEMPT (R121): what a frame that is restored and one that is diverted change, and what a row of them
changes in all.
-/
open Sys2Proof Sys2Proof.Machine
namespace Sys2Proof.Machine

/-! ### What another port gains -/

theorem appendNotice_appends (q : List Notice) (n : Notice) : ∃ more, appendNotice q n = q ++ more := by
  unfold appendNotice
  split_ifs
  · exact ⟨_, rfl⟩
  · exact ⟨_, rfl⟩
  · exact ⟨[], (List.append_nil q).symm⟩

theorem foldl_appendNotice_appends (ns q : List Notice) : ∃ more, ns.foldl appendNotice q = q ++ more := by
  induction ns generalizing q with
  | nil => exact ⟨[], (List.append_nil q).symm⟩
  | cons n ns ih =>
    obtain ⟨first, one⟩ := appendNotice_appends q n
    obtain ⟨more, rest⟩ := ih (appendNotice q n)
    exact ⟨first ++ more, by rw [List.foldl_cons, rest, one, List.append_assoc]⟩

theorem Port.told_appends (x : Port) (ns : List Notice) :
    ∃ more, x.told ns = { x with notices := x.notices ++ more } := by
  unfold Port.told
  split
  · obtain ⟨more, e⟩ := foldl_appendNotice_appends ns x.notices
    exact ⟨more, by rw [e]⟩
  · exact ⟨[], by rw [List.append_nil]⟩

section Gains
variable {x y z : Port} {h g : Hub} {a b : List FrameId}

theorem Port.OnlyGains.refl (x : Port) (h : Hub) (a : List FrameId) : x.OnlyGains x h a :=
  ⟨⟨rfl, rfl, rfl, rfl, rfl, rfl⟩, ⟨[], (List.append_nil _).symm⟩, .inl ⟨rfl, rfl⟩⟩

/-- A port that is told something gains no frame. -/
theorem Port.told_onlyGains (x : Port) (ns : List Notice) (h : Hub) (a : List FrameId) :
    x.OnlyGains (x.told ns) h a := by
  obtain ⟨more, e⟩ := x.told_appends ns
  rw [e]
  exact ⟨⟨rfl, rfl, rfl, rfl, rfl, rfl⟩, ⟨more, rfl⟩, .inl ⟨rfl, rfl⟩⟩

/-- A port gains one frame at most, since its claim has then been granted (R88). -/
theorem Port.OnlyGains.trans (m : x.OnlyGains y h a) (n : y.OnlyGains z g b)
    (handles : ∀ i ∈ b, g.handle i = h.handle i) : x.OnlyGains z h (a ++ b) where
  kept := by
    obtain ⟨s, e, t, f, k, l⟩ := m.kept
    obtain ⟨s', e', t', f', k', l'⟩ := n.kept
    exact ⟨s'.trans s, e'.trans e, t'.trans t, f'.trans f, k'.trans k, l'.trans l⟩
  notices := by
    obtain ⟨more, e⟩ := m.notices
    obtain ⟨more', e'⟩ := n.notices
    exact ⟨more ++ more', by rw [e', e, List.append_assoc]⟩
  hold := by
    rcases m.hold with ⟨hold, claim⟩ | ⟨i, hi, hold, claim, waits⟩ <;>
      rcases n.hold with ⟨hold', claim'⟩ | ⟨j, hj, hold', claim', waits'⟩
    · exact .inl ⟨hold'.trans hold, claim'.trans claim⟩
    · exact .inr ⟨j, List.mem_append_right a hj, by rw [hold', hold], by rw [claim', handles j hj], claim ▸ waits'⟩
    · exact .inr ⟨i, List.mem_append_left b hi, hold'.trans hold, claim'.trans claim, waits⟩
    · rw [claim] at waits'
      cases waits'

end Gains

/-- A port that only gains has a claim that takes no frame but those it took. -/
theorem Hub.claimTakes_of_onlyGains {h g k : Hub} {a : List FrameId} {q : PortId} {c : Context} {passed : Option PortId}
    (gains : (h.port q).OnlyGains (g.port q) k a) (takes : g.claimTakes c passed q = true) :
    h.claimTakes c passed q = true := by
  rcases gains.hold with ⟨-, claim⟩ | ⟨i, -, -, claim, -⟩
  · unfold Hub.claimTakes at takes ⊢
    rwa [claim] at takes
  · unfold Hub.claimTakes at takes
    rw [claim] at takes
    cases takes

/-! ### A frame made available, whatever the order of the queues (R25, R88) -/

section Available
variable (h : Hub) (i : FrameId) (c : Context)

theorem insert_sublist (atHead : Bool) (eff : FrameId → Prio) (b : Prio) (i : FrameId) (q : List FrameId) :
    q.Sublist (if atHead then insertHead eff b [i] q else insertTail eff b [i] q) := by
  have joins : ∀ t : FrameId → Bool, q.Sublist (q.takeWhile t ++ [i] ++ q.dropWhile t) := fun t => by
    conv_lhs => rw [← List.takeWhile_append_dropWhile (p := t) (l := q)]
    exact (List.sublist_append_left ..).append_right _
  split
  · exact joins _
  · exact joins _

/-- An insertion only adds to the queue of its class (R25). -/
theorem Hub.enqueue_cls (cause : Cause) (k : ClassId) :
    ∃ q, (h.enqueue i c cause).cls k = { h.cls k with queue := q } ∧ (h.cls k).queue.Sublist q := by
  have inserted : ∀ (g : Hub) (q : List FrameId), (g.cls c.control.cls).queue.Sublist q →
      ∃ q', (g.updClass c.control.cls (fun x => { x with queue := q })).cls k = { g.cls k with queue := q' } ∧
        (g.cls k).queue.Sublist q' := by
    intro g q grows
    rw [Hub.updClass_cls]
    split
    · next e => subst e; exact ⟨q, rfl, grows⟩
    · exact ⟨_, rfl, .refl _⟩
  have grows := inserted (h.putCtx i { c with cause := some cause, place := .queued c.control.base 0 }) _
    (insert_sublist cause.entersAtHead h.effOf c.control.base i _)
  simp only [Hub.enqueue]
  split
  · simp only [Hub.postReady_rest]
    exact grows
  · exact grows

/-- An insertion tells the ports something, and changes nothing else of them (R37). -/
theorem Hub.enqueue_port (cause : Cause) (q : PortId) :
    ∃ ns, (h.enqueue i c cause).port q = (h.port q).told ns := by
  simp only [Hub.enqueue]
  split
  · exact ⟨_, Hub.postReady_port ..⟩
  · exact ⟨[], (Port.told_nil _).symm⟩

theorem Hub.enqueue_frame (cause : Cause) (j : FrameId) : (h.enqueue i c cause).frame j = if j = i then
    { h.frame i with ctx := some { c with cause := some cause, place := .queued c.control.base 0 } }
    else h.frame j := by
  simp only [Hub.enqueue]
  split <;> simp

theorem Hub.enqueue_rest (cause : Cause) : (∀ b, (h.enqueue i c cause).block b = h.block b) ∧
    (h.enqueue i c cause).memory = h.memory ∧ (h.enqueue i c cause).waitList = h.waitList ∧
    (h.enqueue i c cause).isolation = h.isolation := by
  simp only [Hub.enqueue]
  split <;> simp

end Available

/-! ### What the frames of a group change -/

/-- The frame stands where its outcome says. -/
def Hub.Shows (g : Hub) (j : FrameId) : FrameOutcome → Prop
  | .queued => g.placed Place.isQueued j = true
  | .granted q => g.placed (Place.isHeldOf q) j = true
  | .isolated _ => False

/-- What END_PREEMPT changes, outside its own port, once it has restored the frames `kept` to the port and diverted the
frames of `out` to the outcomes named there (R121). -/
structure Hub.Passes (h g : Hub) (p : PortId) (kept : List FrameId) (out : List (FrameId × FrameOutcome)) : Prop where
  restored : ∀ j ∈ kept, ∀ c ∈ h.ctx j,
    g.frame j = { h.frame j with ctx := some { c with place := .held p false } }
  diverted : ∀ d ∈ out, h.MovedOn g d.1 .returned (some p) ∧ g.Shows d.1 d.2
  others   : ∀ q, q ≠ p → (h.port q).OnlyGains (g.port q) h (out.map Prod.fst)
  classes  : ∀ k, ∃ q, g.cls k = { h.cls k with queue := q } ∧ (h.cls k).queue.Sublist q
  waitList : g.waitList.Sublist h.waitList
  same     : h.SameBeyond g { frames := fun j => j ∈ kept ∨ j ∈ out.map Prod.fst, ports := fun _ => True,
                              classes := fun _ => True, waitList := True }

section Passes
variable {h g k : Hub} {p : PortId} {i : FrameId} {c : Context}

theorem Hub.Shows.of_frame {j : FrameId} {o : FrameOutcome} (stands : g.Shows j o) (frame : k.frame j = g.frame j) :
    k.Shows j o := by
  have ctx : k.ctx j = g.ctx j := congrArg Frame.ctx frame
  cases o with
  | isolated r => exact stands
  | queued => simpa only [Hub.Shows, Hub.placed, ctx] using stands
  | granted q => simpa only [Hub.Shows, Hub.placed, ctx] using stands

/-- Where a frame went, seen from a hub in which it was the same and the claims that take it took it too. -/
theorem Hub.MovedOn.of_frame {h' : Hub} {j : FrameId} {cause : Cause} {passed : Option PortId}
    (moved : h.MovedOn g j cause passed) (before : h'.frame j = h.frame j) (after : k.frame j = g.frame j)
    (claims : ∀ d q, h.claimTakes d passed q = true → h'.claimTakes d passed q = true) :
    h'.MovedOn k j cause passed := by
  intro d used
  have ctx : h'.ctx j = h.ctx j := congrArg Frame.ctx before
  obtain ⟨place, frame, went⟩ := moved d (ctx ▸ used)
  exact ⟨place, by rw [after, frame, before],
    went.imp_right fun ⟨q, held, takes⟩ => ⟨q, held, claims d q takes⟩⟩

/-- A change of ports alone deals with no frame, where it only tells the other ports something. -/
theorem Hub.Passes.ofPorts {ports : PortId → Prop} (same : h.SameBeyond g { ports := ports })
    (others : ∀ q, q ≠ p → ∃ ns, g.port q = (h.port q).told ns) : h.Passes g p [] [] where
  restored j hj := absurd hj List.not_mem_nil
  diverted d hd := absurd hd List.not_mem_nil
  others q hq := by
    obtain ⟨ns, told⟩ := others q hq
    rw [told]
    exact Port.told_onlyGains ..
  classes k := ⟨_, same.classes k id, .refl _⟩
  waitList := by rw [same.waitList id]
  same := same.mono {}

theorem Hub.Passes.nil (h : Hub) (p : PortId) : h.Passes h p [] [] :=
  .ofPorts (ports := fun _ => False) (.refl h _) fun _ _ => ⟨[], (Port.told_nil _).symm⟩

/-- Frames that are dealt with after others, and are none of them. -/
theorem Hub.Passes.trans {kept kept' : List FrameId} {out out' : List (FrameId × FrameOutcome)}
    (a : h.Passes g p kept out) (b : g.Passes k p kept' out')
    (apart : ∀ j, j ∈ kept' ∨ j ∈ out'.map Prod.fst → ¬ (j ∈ kept ∨ j ∈ out.map Prod.fst)) :
    h.Passes k p (kept ++ kept') (out ++ out') where
  restored j hj d used := by
    rcases List.mem_append.mp hj with hj | hj
    · exact (b.same.frames j fun hj' => apart j hj' (.inl hj)).trans (a.restored j hj d used)
    · have frame := a.same.frames j (apart j (.inl hj))
      rw [← frame]
      exact b.restored j hj d ((congrArg Frame.ctx frame).trans used)
  diverted d hd := by
    have claims : ∀ e q, g.claimTakes e (some p) q = true → h.claimTakes e (some p) q = true := fun e q takes =>
      Hub.claimTakes_of_onlyGains (a.others q (Hub.ne_of_claimTakes takes)) takes
    rcases List.mem_append.mp hd with hd | hd
    · have later := b.same.frames d.1 fun hj => apart d.1 hj (.inr (List.mem_map_of_mem hd))
      exact ⟨(a.diverted d hd).1.of_frame rfl later fun _ _ => id, (a.diverted d hd).2.of_frame later⟩
    · have earlier := a.same.frames d.1 (apart d.1 (.inr (List.mem_map_of_mem hd)))
      exact ⟨(b.diverted d hd).1.of_frame earlier.symm rfl claims, (b.diverted d hd).2⟩
  others q hq := by
    rw [List.map_append]
    refine (a.others q hq).trans (b.others q hq) fun j hj => ?_
    rw [Hub.handle, a.same.frames j (apart j (.inr hj)), Hub.handle]
  classes l := by
    obtain ⟨q, first, grows⟩ := a.classes l
    obtain ⟨q', second, grows'⟩ := b.classes l
    rw [first] at second grows'
    exact ⟨q', second, grows.trans grows'⟩
  waitList := b.waitList.trans a.waitList
  same := by
    rw [List.map_append]
    refine (a.same.mono ?first).trans (b.same.mono ?second)
    case first => exact { frames := fun j hj => hj.imp (List.mem_append_left _) (List.mem_append_left _) }
    case second => exact { frames := fun j hj => hj.imp (List.mem_append_right _) (List.mem_append_right _) }

theorem Hub.placed_of_ctx {test : Place → Bool} (used : h.ctx i = some c) : h.placed test i = test c.place := by
  rw [Hub.placed, used, Option.any_some]

/-- A frame restored leaves its place in the stack for the hold set, and nothing else changes (R60, R121). -/
theorem Hub.enterHold_restores (h : Hub) (i : FrameId) (c : Context) (p : PortId) :
    h.Restores (h.enterHold i c p) p i c := by
  refine ⟨by simp [Hub.enterHold], by simp [Hub.enterHold], ?_⟩
  refine ((h.putCtx_sameBeyond i _).mono ?_).trans ((Hub.updPort_sameBeyond _ p _).mono ?_)
  · exact {}
  · exact {}

theorem Hub.Restores.passes (used : h.ctx i = some c) (r : h.Restores g p i c) : h.Passes g p [i] [] := by
  obtain ⟨frame, -, same⟩ := r
  refine
    { restored := fun j hj d hd => ?_
      diverted := fun d hd => absurd hd List.not_mem_nil
      others := fun q hq => by rw [same.ports q hq]; exact .refl _ _ _
      classes := fun k => ⟨_, same.classes k id, .refl _⟩
      waitList := by rw [same.waitList id]
      same := same.mono { frames := by simp } }
  obtain rfl := List.mem_singleton.mp hj
  obtain rfl : c = d := Option.some.inj (used.symm.trans hd)
  exact frame

/-- One frame that leaves the port for a queue or for another port's claim. -/
theorem Hub.Passes.ofDiverted {place : Place} {o : FrameOutcome} (used : h.ctx i = some c)
    (frames : ∀ j, g.frame j = if j = i then
      { h.frame i with ctx := some { c with cause := some .returned, place := place } } else h.frame j)
    (went : place = .queued c.control.base 0 ∨ ∃ q, place = .held q false ∧ h.claimTakes c (some p) q = true)
    (stands : g.Shows i o) (others : ∀ q, q ≠ p → (h.port q).OnlyGains (g.port q) h [i])
    (classes : ∀ k, ∃ q, g.cls k = { h.cls k with queue := q } ∧ (h.cls k).queue.Sublist q)
    (blocks : ∀ b, g.block b = h.block b) (memory : g.memory = h.memory) (waitList : g.waitList.Sublist h.waitList)
    (isolation : g.isolation = h.isolation) : h.Passes g p [] [(i, o)] where
  restored j hj := absurd hj List.not_mem_nil
  diverted d hd := by
    obtain rfl := List.mem_singleton.mp hd
    refine ⟨fun d hd => ?_, stands⟩
    obtain rfl : c = d := Option.some.inj (used.symm.trans hd)
    exact ⟨place, (frames i).trans (if_pos rfl), went⟩
  others := others
  classes := classes
  waitList := waitList
  same :=
    { frames := fun j hj => (frames j).trans (if_neg (by simpa using hj))
      ports := fun _ hq => absurd trivial hq
      classes := fun _ hk => absurd trivial hk
      blocks := fun b _ => blocks b
      words := fun a _ => by rw [memory]
      waitList := fun hw => absurd trivial hw
      isolation := fun _ => isolation }

/-- A frame that is granted to another port's claim (R88). -/
theorem Hub.grant_passes (used : h.ctx i = some c) {q : PortId} (takes : h.claimTakes c (some p) q = true) :
    h.Passes (h.grant i { c with cause := some .returned } q) p [] [(i, .granted q)] := by
  obtain ⟨frames, ports, classes, blocks, memory, waitList, isolation⟩ :=
    h.grant_parts i { c with cause := some .returned } q
  have held := Hub.placed_of_ctx (test := Place.isHeldOf q) (congrArg Frame.ctx ((frames i).trans (if_pos rfl)))
  refine .ofDiverted used frames (.inr ⟨q, rfl, takes⟩) (held.trans (beq_self_eq_true q)) (fun r _ => ?_)
    (fun k => ⟨_, classes k, .refl _⟩) blocks memory (waitList ▸ List.erase_sublist) isolation
  rw [ports]
  split
  · next e =>
    subst e
    exact ⟨⟨rfl, rfl, rfl, rfl, rfl, rfl⟩, ⟨[], (List.append_nil _).symm⟩,
      .inr ⟨i, List.mem_singleton_self i, rfl, rfl, Hub.isWaiting_of_claimTakes takes⟩⟩
  · exact .refl _ _ _

/-- A frame that goes to the queue of its class (R25, R26). -/
theorem Hub.enqueue_passes (used : h.ctx i = some c) : h.Passes (h.enqueue i c .returned) p [] [(i, .queued)] := by
  have frames := h.enqueue_frame i c .returned
  obtain ⟨blocks, memory, waitList, isolation⟩ := h.enqueue_rest i c .returned
  have queued := Hub.placed_of_ctx (test := Place.isQueued) (congrArg Frame.ctx ((frames i).trans (if_pos rfl)))
  refine .ofDiverted used frames (.inl rfl) queued (fun q _ => ?_) (h.enqueue_cls i c .returned) blocks memory
    (by rw [waitList]) isolation
  obtain ⟨ns, told⟩ := h.enqueue_port i c .returned q
  rw [told]
  exact Port.told_onlyGains ..

/-- A claim of the port takes no frame whose affinity does not include it (R87). -/
theorem Hub.claimTakes_of_barred (barred : ¬ c.allows p = true) {q : PortId} (takes : h.claimTakes c none q = true) :
    q ≠ p ∧ h.claimTakes c (some p) q = true := by
  obtain ⟨waits, -⟩ := (h.claimTakes_iff c none q).mp takes
  have other : q ≠ p := by
    rintro rfl
    obtain ⟨m, -, -, allowed⟩ := waits
    exact barred allowed
  exact ⟨other, (h.claimTakes_iff c (some p) q).mpr ⟨waits, by simpa using other.symm⟩⟩

/-- A frame whose affinity does not include the port is diverted, and not to the port (R121). -/
theorem Hub.makeAvailable_passes (used : h.ctx i = some c) (barred : ¬ c.allows p = true) :
    h.Passes (h.makeAvailable i c .returned none).1 p [] [(i, (h.makeAvailable i c .returned none).2)] := by
  unfold Hub.makeAvailable
  cases found : h.offer c none with
  | none => exact Hub.enqueue_passes used
  | some q => exact Hub.grant_passes used (Hub.claimTakes_of_barred barred (Hub.offer_some found).1).2

/-- The port that diverts a frame is told of it at most. -/
theorem Hub.makeAvailable_port (barred : ¬ c.allows p = true) :
    ∃ more, (h.makeAvailable i c .returned none).1.port p =
      { h.port p with notices := (h.port p).notices ++ more } := by
  unfold Hub.makeAvailable
  cases found : h.offer c none with
  | none =>
    obtain ⟨ns, told⟩ := h.enqueue_port i c .returned p
    rw [told]
    exact Port.told_appends ..
  | some q =>
    obtain ⟨-, ports, -⟩ := h.grant_parts i { c with cause := some .returned } q
    have other := (Hub.claimTakes_of_barred barred (Hub.offer_some found).1).1
    exact ⟨[], by rw [ports, if_neg other.symm, List.append_nil]⟩

end Passes

end Sys2Proof.Machine
end

section
/-!
The preempt group dealt with one frame after another (R121): each queue stays in its bands, and the row of frames is put
together from its first frame and the rest.
-/
open Sys2Proof Sys2Proof.Machine
namespace Sys2Proof.Machine

/-! ### Bands, frame by frame (R24, R26) -/

section Bands
variable {h g : Hub} {p : PortId} {i : FrameId} {c : Context} {out : List FrameId}

/-- A frame that is out stands in no collection. -/
theorem Hub.FiledBut.not_mem_shelf (hf : h.FiledBut (i :: out)) (x : Shelf) : i ∉ h.shelf x := fun listed =>
  ((hf.mem x i).mp listed).1 List.mem_cons_self

theorem Hub.updPort_eq_self {f : Port → Port} (e : f (h.port p) = h.port p) : h.updPort p f = h := by
  unfold Hub.updPort
  rw [e]
  simp [Hub.port, Vector.get_eq_getElem]

/-- A frame that is out has left its owner already. -/
theorem Hub.FiledBut.leaveOwner_eq (hf : h.FiledBut (i :: out)) (c : Context) : h.leaveOwner i c = h := by
  unfold Hub.leaveOwner
  cases c.place with
  | queued e w => rfl
  | isolated r => rfl
  | filling o n =>
    have free := hf.not_mem_shelf (.filling o)
    exact Hub.updPort_eq_self (congrArg (fun l => { h.port o with filling := l }) (List.erase_of_not_mem free))
  | held o m =>
    have free := hf.not_mem_shelf (.hold o)
    exact Hub.updPort_eq_self (congrArg (fun l => { h.port o with hold := l }) (List.erase_of_not_mem free))
  | stacked o =>
    have free := hf.not_mem_shelf (.stack o)
    have kept : (h.port o).stack.eraseP (fun e => e.frame == i) = (h.port o).stack :=
      List.eraseP_of_forall_not fun e he hi => free (List.mem_map.mpr ⟨e, he, beq_iff_eq.mp hi⟩)
    exact Hub.updPort_eq_self (congrArg (fun l => { h.port o with stack := l }) kept)

theorem Hub.effOf_of_frame {j : FrameId} (frame : g.frame j = h.frame j) : g.effOf j = h.effOf j := by
  simp only [Hub.effOf, Hub.ctx, frame]

/-- A change of one frame that is in no queue leaves the bands of every queue as it was. -/
theorem Hub.QueuesBanded.seenFrom (hb : h.QueuesBanded) (idle : ∀ k, i ∉ (h.cls k).queue)
    (frames : ∀ j, j ≠ i → g.frame j = h.frame j) (k : ClassId) :
    (h.cls k).queue.Pairwise (fun a b => g.effOf b ≤ g.effOf a) := by
  have eff : ∀ j ∈ (h.cls k).queue, g.effOf j = h.effOf j := fun j hj =>
    Hub.effOf_of_frame (frames j fun e => idle k (e ▸ hj))
  refine (hb k).imp_of_mem fun {a b} ha hb le => ?_
  rwa [eff a ha, eff b hb]

/-- A frame restored was in no queue, and each queue stays in its bands. -/
theorem Hub.QueuesBanded.restores (hb : h.QueuesBanded) (idle : ∀ k, i ∉ (h.cls k).queue) (r : h.Restores g p i c) :
    g.QueuesBanded := fun k => by
  obtain ⟨-, -, same⟩ := r
  rw [same.classes k id]
  exact hb.seenFrom idle same.frames k

theorem pairwise_inserted {α : Type} {r : α → α → Prop} {ahead behind : List α} {a : α}
    (stood : (ahead ++ behind).Pairwise r) (above : ∀ b ∈ ahead, r b a) (below : ∀ b ∈ behind, r a b) :
    (ahead ++ a :: behind).Pairwise r := by
  obtain ⟨first, last, across⟩ := List.pairwise_append.mp stood
  refine List.pairwise_append.mpr ⟨first, List.pairwise_cons.mpr ⟨below, last⟩, fun b hb d hd => ?_⟩
  rcases List.mem_cons.mp hd with rfl | hd
  · exact above b hb
  · exact across b hb d hd

/-- A frame inserted in its base band leaves its queue in its bands (R26). -/
theorem Hub.Inserts.banded {cause : Cause} {passed ends : Option PortId} (x : h.Inserts g i c cause passed ends)
    (stood : (h.cls c.control.cls).queue.Pairwise (fun a b => g.effOf b ≤ g.effOf a))
    (eff : ∀ j ∈ (h.cls c.control.cls).queue, g.effOf j = h.effOf j) :
    (g.cls c.control.cls).queue.Pairwise (fun a b => g.effOf b ≤ g.effOf a) := by
  obtain ⟨ahead, behind, queue, inserted, place⟩ := x.queue
  have base : g.effOf i = c.control.base := by simp [Hub.effOf, Hub.ctx, x.frame, Context.eff]
  have bounds : (∀ j ∈ ahead, c.control.base ≤ h.effOf j) ∧ ∀ j ∈ behind, h.effOf j ≤ c.control.base := by
    split at place
    · exact ⟨fun j hj => (place.1 j hj).le, place.2⟩
    · exact ⟨place.1, fun j hj => (place.2 j hj).le⟩
  obtain ⟨above, below⟩ := bounds
  rw [queue] at stood eff
  rw [inserted]
  refine pairwise_inserted stood (fun j hj => ?_) fun j hj => ?_
  · rw [base, eff j (List.mem_append_left _ hj)]
    exact above j hj
  · rw [base, eff j (List.mem_append_right _ hj)]
    exact below j hj

/-- A frame given up was in no queue, and each queue stays in its bands. -/
theorem Hub.QueuesBanded.givesUp (hb : h.QueuesBanded) (idle : ∀ k, i ∉ (h.cls k).queue) {cause : Cause}
    {passed : Option PortId} {o : FrameOutcome} (r : h.GivesUp g i c cause passed o) : g.QueuesBanded := by
  obtain ⟨went, same⟩ := r
  have stood := hb.seenFrom idle same.frames
  intro k
  cases o with
  | isolated r => exact went.elim
  | granted q => rw [went.classes k]; exact stood k
  | queued =>
    by_cases own : k = c.control.cls
    · subst own
      exact went.banded (stood _) fun j hj => Hub.effOf_of_frame (same.frames j fun e => idle _ (e ▸ hj))
    · rw [same.classes k own]
      exact stood k

end Bands

/-! ### The group dealt with (R121) -/

/-- What dealing with a row of frames does, as the affinities of the frames decide: which are restored, which are
diverted and to what outcomes, what changes in all, and how each was dealt with where the queues stand in bands. -/
structure EndTally.Deals (t u : EndTally) (p : PortId) (l : List FrameId) (out : List (FrameId × FrameOutcome)) :
    Prop where
  restored : u.restored = t.restored ++ l.filter (t.hub.restorable p)
  diverted : u.diverted = t.diverted ++ out
  barred   : out.map Prod.fst = l.filter (fun j => !t.hub.restorable p j)
  passes   : t.hub.Passes u.hub p (l.filter (t.hub.restorable p)) out
  port     : ∃ more, u.hub.port p = { t.hub.port p with
    hold := (t.hub.port p).hold ++ l.filter (t.hub.restorable p), notices := (t.hub.port p).notices ++ more }
  turns    : t.hub.FiledBut l → t.hub.QueuesBanded → Hub.DealsInTurn p l (out.map Prod.snd) t.hub u.hub

section Deals
variable {t u : EndTally} {p : PortId} {i : FrameId} {l : List FrameId} {c : Context}

theorem EndTally.deal_restores (used : t.hub.ctx i = some c) (allowed : c.allows p = true) :
    t.deal p i = { t with hub := t.hub.enterHold i c p, restored := t.restored ++ [i] } := by
  rw [EndTally.deal, used]
  exact if_pos allowed

theorem EndTally.deal_diverts (used : t.hub.ctx i = some c) (barred : ¬ c.allows p = true) :
    t.deal p i = { t with
      hub := (t.hub.makeAvailable i c .returned none).1,
      diverted := t.diverted ++ [(i, (t.hub.makeAvailable i c .returned none).2)] } := by
  rw [EndTally.deal, used]
  exact if_neg barred

/-- Only frames of the row are restored or diverted. -/
theorem EndTally.Deals.mem {out : List (FrameId × FrameOutcome)} (d : t.Deals u p l out) {j : FrameId}
    (dealt : j ∈ l.filter (t.hub.restorable p) ∨ j ∈ out.map Prod.fst) : j ∈ l := by
  rcases dealt with hj | hj
  · exact List.mem_of_mem_filter hj
  · rw [d.barred] at hj
    exact List.mem_of_mem_filter hj

section Step
variable {out : List (FrameId × FrameOutcome)} (used : t.hub.ctx i = some c) (fresh : i ∉ l)
  (rest : (t.deal p i).Deals u p l out)
include used fresh rest

/-- A frame restored before others that are dealt with. -/
theorem EndTally.Deals.consRestored (allowed : c.allows p = true) : t.Deals u p (i :: l) out := by
  have may : t.hub.restorable p i = true := Hub.restorable_iff.mpr ⟨c, used, allowed⟩
  have step := t.hub.enterHold_restores i c p
  obtain ⟨-, port_p, -⟩ := t.hub.enterHold_restores i c p
  have filed : t.hub.FiledBut (i :: l) → (t.deal p i).hub.FiledBut l := fun hf => hf.deal fresh p
  have later : ∀ {j}, _ → j ∈ l := rest.mem
  obtain ⟨restored, diverted, barred, passes, ⟨more, port⟩, turns⟩ := rest
  simp only [funext (t.deal_restorable p i)] at restored barred passes port later
  rw [EndTally.deal_restores used allowed] at restored diverted passes port turns filed
  refine ⟨?_, diverted, ?_, ?_, ⟨more, ?_⟩, fun hf hb => ?_⟩
  · rw [restored, List.filter_cons_of_pos may, List.append_assoc, List.singleton_append]
  · rw [barred, List.filter_cons_of_neg (by simp [may])]
  · rw [List.filter_cons_of_pos may]
    refine (step.passes used).trans passes fun j hj e => fresh ?_
    rw [← show j = i by simpa using e]
    exact later hj
  · rw [port, port_p, List.filter_cons_of_pos may, List.append_assoc, List.singleton_append]
  · rw [Hub.DealsInTurn]
    refine ⟨c, used, ?_⟩
    rw [if_pos allowed]
    exact ⟨_, step, turns (filed hf) (hb.restores (fun k => hf.not_mem_shelf (.queue k)) step)⟩

/-- A frame diverted before others that are dealt with. -/
theorem EndTally.Deals.consDiverted (barred : ¬ c.allows p = true) :
    t.Deals u p (i :: l) ((i, (t.hub.makeAvailable i c .returned none).2) :: out) := by
  have may : t.hub.restorable p i = false := by
    rw [Hub.restorable, used]
    exact Bool.eq_false_iff.mpr barred
  have step := Hub.makeAvailable_passes used barred
  have filed : t.hub.FiledBut (i :: l) → (t.deal p i).hub.FiledBut l := fun hf => hf.deal fresh p
  have later : ∀ {j}, _ → j ∈ l := rest.mem
  obtain ⟨first, port_i⟩ := t.hub.makeAvailable_port (i := i) barred
  obtain ⟨restored, diverted, kept, passes, ⟨more, port⟩, turns⟩ := rest
  simp only [funext (t.deal_restorable p i)] at restored kept passes port later
  rw [EndTally.deal_diverts used barred] at restored diverted passes port turns filed
  refine ⟨?_, ?_, ?_, ?_, ⟨first ++ more, ?_⟩, fun hf hb => ?_⟩
  · rw [restored, List.filter_cons_of_neg (by simp [may])]
  · rw [diverted, List.append_assoc, List.singleton_append]
  · rw [List.map_cons, kept, List.filter_cons_of_pos (by simp [may])]
  · rw [List.filter_cons_of_neg (by simp [may])]
    refine step.trans passes fun j hj e => fresh ?_
    rw [← show j = i by simpa using e]
    exact later hj
  · rw [port, port_i, List.filter_cons_of_neg (by simp [may]), List.append_assoc]
  · have given := Hub.makeAvailable_givesUp hb (hf.leaveOwner_eq c) .returned none
    rw [Hub.DealsInTurn]
    refine ⟨c, used, ?_⟩
    rw [if_neg barred]
    exact ⟨_, _, _, rfl, given, turns (filed hf) (hb.givesUp (fun k => hf.not_mem_shelf (.queue k)) given)⟩

end Step

/-- A row of frames in use, each once, is dealt with one frame after another. -/
theorem EndTally.foldl_deal_deals (p : PortId) (t : EndTally) (once : l.Nodup)
    (used : ∀ j ∈ l, ∃ c, t.hub.ctx j = some c) :
    ∃ out, t.Deals (l.foldl (fun t i => t.deal p i) t) p l out := by
  induction l generalizing t with
  | nil =>
    refine ⟨[], (List.append_nil _).symm, (List.append_nil _).symm, rfl, .nil _ p, ⟨[], ?_⟩, fun _ _ => ?_⟩
    · rw [List.filter_nil, List.append_nil, List.append_nil]
      rfl
    · rw [Hub.DealsInTurn]
      exact ⟨rfl, rfl⟩
  | cons i l ih =>
    obtain ⟨fresh, once⟩ := List.nodup_cons.mp once
    obtain ⟨c, hc⟩ := used i List.mem_cons_self
    have used' : ∀ j ∈ l, ∃ c, (t.deal p i).hub.ctx j = some c := fun j hj => by
      have frame : (t.deal p i).hub.frame j = t.hub.frame j := EndTally.deal_frame fun e => fresh (e ▸ hj)
      obtain ⟨d, hd⟩ := used j (List.mem_cons_of_mem i hj)
      exact ⟨d, (congrArg Frame.ctx frame).trans hd⟩
    obtain ⟨out, rest⟩ := ih (t.deal p i) once used'
    by_cases allowed : c.allows p = true
    · exact ⟨_, rest.consRestored hc fresh allowed⟩
    · exact ⟨_, rest.consDiverted hc fresh allowed⟩

end Deals

end Sys2Proof.Machine
end

section
/-!
END_PREEMPT where R120 lets it pass (R121 to R123): the group leaves the stack, its frames are dealt with one after
another, the requester is told, and the latch changes.
-/
open Sys2Proof Sys2Proof.Machine
namespace Sys2Proof.Machine

section EndService
variable {h : Hub} {p : PortId} {v : Urgent}

/-! ### The group taken off the stack (R97, R121) -/

theorem Hub.restorable_eq (h : Hub) (p : PortId) : h.restorable p = fun j => (h.ctx j).any (fun c => c.allows p) := by
  funext j
  unfold Hub.restorable
  cases h.ctx j <;> rfl

/-- A stack with a PREEMPT entry on top is not nested (R120). -/
theorem Port.not_nested {x : Port} (top : ∀ e rest, x.stack = e :: rest → e.tag = .preempt ∨ x.group = []) :
    ¬ x.nested = true := by
  rw [Port.nested_iff]
  rintro ⟨e, rest, stack, voluntary, f, hf, preempt⟩
  rcases top e rest stack with tag | none
  · rw [voluntary] at tag
    cases tag
  · have below : f ∈ x.stack := stack ▸ List.mem_cons_of_mem e hf
    have listed : f.frame ∈ x.group := Port.mem_group.mpr ⟨f, below, preempt, rfl⟩
    rw [none] at listed
    cases listed

theorem Hub.FiledBut.group_nodup (hf : h.FiledBut []) (p : PortId) : (h.port p).group.Nodup :=
  List.nodup_reverse.mpr ((hf.nodup (.stack p)).sublist (List.filter_sublist.map _))

theorem Hub.FiledBut.shelfOf_group (hf : h.FiledBut []) {j : FrameId} (hj : j ∈ (h.port p).group) :
    h.shelfOf j = some (.stack p) := hf.mem_nil.mp (Port.group_subset _ hj)

/-- The frames of the group are out while they are dealt with. -/
theorem Hub.FiledBut.liftGroup (hf : h.FiledBut []) (p : PortId) :
    (h.liftGroup p).hub.FiledBut (h.port p).group := by
  have shelves : ∀ y, (h.liftGroup p).hub.shelf y =
      if y = .stack p then ((h.port p).stack.filter (fun e => e.tag != .preempt)).map StackEntry.frame
      else h.shelf y := Hub.updPort_shelf rfl rfl (if_pos rfl) fun _ _ _ hy => if_neg hy
  refine hf.takeAll (fun y => ?_) (fun y j => ?_) fun _ => rfl
  · rw [shelves]
    split
    · next e => subst e; exact List.filter_sublist.map _
    · exact .refl _
  · rw [shelves]
    split
    · next e =>
      subst e
      rw [Port.group, List.mem_reverse]
      exact mem_map_frame_filter (hf.nodup (.stack p)) j
    · next apart =>
      refine (and_iff_left_of_imp fun hj hg => apart ?_).symm
      exact Option.some.inj ((hf.mem_nil.mp hj).symm.trans (hf.shelfOf_group hg))

/-- The group leaves the stack of its port, and nothing else changes (R121). -/
theorem Hub.liftGroup_lifts (h : Hub) (p : PortId) :
    (h.liftGroup p).hub.port p = { h.port p with stack := (h.port p).stack.filter (fun e => e.tag != .preempt) } ∧
      h.SameBeyond (h.liftGroup p).hub { ports := (· = p) } :=
  ⟨(Hub.updPort_port ..).trans (if_pos rfl),
    h.updPort_sameBeyond p (fun x => { x with stack := x.stack.filter (fun e => e.tag != .preempt) })⟩

/-! ### The end of the service (R122) -/

/-- The requester `r` is sent a notice and the latch of the port changes, and nothing else does (R122). -/
structure Hub.Closes (e g : Hub) (p r : PortId) (n : Notice) (l : Latch) : Prop where
  requester : g.port r = (e.port r).told [n]
  server    : g.port p = { e.port p with latch := l }
  rest      : e.SameBeyond g { ports := fun q => q = p ∨ q = r }

theorem Hub.post_setLatch_closes (e : Hub) {r : PortId} (other : r ≠ p) (n : Notice) (l : Latch) :
    e.Closes ((e.post r n).setLatch p l) p r n l where
  requester := by simp [Hub.setLatch_port, Hub.post_port, other]
  server := by simp [Hub.setLatch_port, Hub.post_port, other.symm]
  rest := by
    refine ((e.post_tells r n).2.mono ?told).trans (((e.post r n).setLatch_changes p l).2.mono ?latch)
    case told => exact { ports := fun _ => .inr }
    case latch => exact { ports := fun _ => .inl }

/-- An END_PREEMPT lifts the group, deals with it, and closes the service (R121, R122). -/
theorem Hub.endService_deals (filed : h.Filed) (other : v.requester ≠ p) : ∃ e out,
    (h.liftGroup p).Deals e p (h.port p).group out ∧ (h.endService p v).restored = e.restored ∧
      (h.endService p v).diverted = e.diverted ∧
      e.hub.Closes (h.endService p v).hub p v.requester (.preemptDone p v.cls) (h.port p).latchAfter := by
  have hf := h.filed_iff.mp filed
  obtain ⟨out, deals⟩ := EndTally.foldl_deal_deals p (h.liftGroup p) (hf.group_nodup p) fun j hj => by
    obtain ⟨c, used, -⟩ := Option.map_eq_some_iff.mp (hf.shelfOf_group hj)
    exact ⟨c, used⟩
  exact ⟨_, out, deals, rfl, rfl, Hub.post_setLatch_closes _ other ..⟩

/-- Lifting the group and closing the service move no frame, so an END_PREEMPT passes on what its dealing does. -/
theorem Hub.Closes.passes {e g : Hub} {kept : List FrameId} {out : List (FrameId × FrameOutcome)} {r : PortId}
    {n : Notice} {l : Latch} (closes : e.Closes g p r n l) (dealt : (h.liftGroup p).hub.Passes e p kept out) :
    h.Passes g p kept out := by
  obtain ⟨-, same⟩ := h.liftGroup_lifts p
  have lifts : h.Passes (h.liftGroup p).hub p [] [] := .ofPorts same fun q hq =>
    ⟨[], (same.ports q hq).trans (Port.told_nil _).symm⟩
  have told : e.Passes g p [] [] := .ofPorts closes.rest fun q hq => by
    by_cases asks : q = r
    · exact ⟨[n], asks ▸ closes.requester⟩
    · exact ⟨[], (closes.rest.ports q (not_or.mpr ⟨hq, asks⟩)).trans (Port.told_nil _).symm⟩
  have all := (lifts.trans dealt fun _ _ => by simp).trans told fun _ => by simp
  simpa only [List.nil_append, List.append_nil] using all

/-- A requester that is ONLINE is told last, after all that the dealing told it. -/
theorem Hub.Closes.requester_notices {e g : Hub} {kept : List FrameId} {out : List (FrameId × FrameOutcome)}
    {r : PortId} {n : Notice} {l : Latch} (closes : e.Closes g p r n l)
    (dealt : (h.liftGroup p).hub.Passes e p kept out) (other : r ≠ p) (online : h.online r = true) :
    ∃ q, (g.port r).notices = appendNotice q n := by
  obtain ⟨-, same⟩ := h.liftGroup_lifts p
  obtain ⟨state, -⟩ := (dealt.others r other).kept
  have still : (e.port r).state.isOnline = true := by
    rw [state, same.ports r other]
    exact online
  refine ⟨(e.port r).notices, ?_⟩
  rw [closes.requester, Port.told, if_pos still]
  rfl

/-! ### The answer (R123) -/

/-- The answer lists the frames restored and the frames diverted, each with its outcome (R123, R181). -/
theorem EndTally.payload_eq (t : EndTally) (h : Hub) (v : Urgent) (l : Latch) : t.payload h v l =
    noticeWord v ::
      (0#25 ++ BitVec.ofNat 3 (t.diverted.map Prod.fst).length ++ 0#1 ++ BitVec.ofNat 3 t.restored.length) ::
      (t.restored.map (fun j => halfWord (h.handle j)) ++
        List.zipWith (fun j o => outcomeWord (h.handle j) o) (t.diverted.map Prod.fst) (t.diverted.map Prod.snd) ++
        [if l.isPending then 1 else 0]) := by
  rw [List.zipWith_map, List.zipWith_self, List.length_map]
  rfl

end EndService

end Sys2Proof.Machine

/-- Settles O28: the group is dealt with frame by frame, and what that changes in all is put together from what each
frame changes. -/
theorem endPreemptRestoresAndDiverts : Obligations.EndPreemptRestoresAndDiverts := by
  intro s p tag v filed _ on i x allowed group kept out latch admitted served other empty top room _
  have hb : bodyOf s.hub i = s.hub.endPreemptNow p := bodyOf_endPreempt on tag
  have may : s.hub.restorable p = allowed := s.hub.restorable_eq p
  rw [Hub.endPreemptNow_serves served,
    Hub.endPreemptWith_taken empty (Port.not_nested top) (by rw [may]; exact room)] at hb
  obtain ⟨e, pairs, deals, restored, diverted, closes⟩ := s.hub.endService_deals filed other
  obtain ⟨lift_port, lift_same⟩ := s.hub.liftGroup_lifts p
  have lifted : (s.hub.liftGroup p).hub.restorable p = allowed := may
  have restored : (s.hub.endService p v).restored = kept := by rw [restored, deals.restored, lifted]; rfl
  have diverted : (s.hub.endService p v).diverted = pairs := diverted.trans deals.diverted
  have barred : pairs.map Prod.fst = out := by rw [deals.barred, lifted]; rfl
  have passes := deals.passes
  rw [lifted] at passes
  have final := closes.passes passes
  have zipped : out.zip (pairs.map Prod.snd) = pairs := (List.zip_of_prod barred rfl).symm
  rw [EndTally.payload_eq, restored, diverted, barred] at hb
  refine ⟨pairs.map Prod.snd, by rw [← barred, List.length_map, List.length_map], takes_body_eq rfl admitted hb ?_⟩
  refine ⟨?_, final.restored, fun j o hjo => ?_, fun q hq => ?_, ?_, final.classes, final.waitList, ?_,
    fun banded => ?_⟩
  · obtain ⟨more, port⟩ := deals.port
    refine ⟨more, ?_⟩
    rw [closes.server, port, lift_port, lifted, empty]
    rfl
  · obtain ⟨moved, stands⟩ := final.diverted (j, o) (zipped ▸ hjo)
    refine ⟨moved, ?_⟩
    cases o <;> exact stands
  · rw [← barred]
    exact final.others q hq
  · exact closes.requester_notices passes other
  · refine final.same.mono { frames := fun j hj => ?_ }
    rw [barred] at hj
    exact hj.elim List.mem_of_mem_filter List.mem_of_mem_filter
  · refine ⟨_, e.hub, ⟨lift_port, lift_same⟩, deals.turns ?_ banded, closes.requester, closes.server, closes.rest⟩
    exact (s.hub.filed_iff.mp filed).liftGroup p
end

section
/-!
The fence of a port (R139 to R144) step by step as far as its fifth, and what it leaves with the port it fences.
-/
open Sys2Proof Sys2Proof.Machine
namespace Sys2Proof.Machine

/-! ### Notices to several ports -/

/-- A port that is not ONLINE is told nothing (R150). -/
theorem Port.told_offline {x : Port} (off : x.state.isOnline = false) (ns : List Notice) : x.told ns = x := by
  rw [Port.told, off]
  rfl

/-- What is told in two parts is told in one. -/
theorem Port.told_told (x : Port) (ns ms : List Notice) : (x.told ns).told ms = x.told (ns ++ ms) := by
  cases on : x.state.isOnline with
  | false => rw [Port.told_offline on, Port.told_offline on, Port.told_offline on]
  | true => simp [Port.told, on, List.foldl_append]

/-- The notices of a latch, posted one after another, change the notice queues of their requesters alone. -/
theorem Hub.foldl_post_sameBeyond (h : Hub) (p : PortId) (l : List Urgent) :
    h.SameBeyond (l.foldl (fun g n => g.post n.requester (.preemptCancelled p n.cls)) h)
      { ports := fun _ => True } := by
  induction l generalizing h with
  | nil => exact .refl h _
  | cons n l ih => exact ((h.post_tells n.requester (.preemptCancelled p n.cls)).2.mono {}).trans (ih _)

/-- Each requester is told of its own notices, in the order of the latch (R142). -/
theorem Hub.foldl_post_port (h : Hub) (p : PortId) (l : List Urgent) (q : PortId) :
    (l.foldl (fun g n => g.post n.requester (.preemptCancelled p n.cls)) h).port q =
      (h.port q).told ((l.filter (fun n => n.requester == q)).map (fun n => .preemptCancelled p n.cls)) := by
  induction l generalizing h with
  | nil => exact (Port.told_nil _).symm
  | cons n l ih =>
    rw [List.foldl_cons, ih, Hub.post_port]
    by_cases own : n.requester = q
    · subst own
      simp [Port.told_told]
    · rw [if_neg (Ne.symm own), List.filter_cons_of_neg (by simpa using own)]

/-! ### The first four steps (R139 to R142) -/

section Fence
variable {h : Hub} {p : PortId}

/-- The hub before the latch of a port to be fenced is cleared: the port is FENCED, its filling list is freed and its
wait is ended (R139 to R141). -/
def Hub.fenceFrees (h : Hub) (p : PortId) : Hub :=
  (((h.updPort p (fun x => { x with state := .fenced })).freeAll (h.port p).filling).updPort p
    (fun x => { x with filling := [] })).fenceClaim p

/-- The hub before the fifth step of a fence: the latch is cleared, and the frames that the step reclaims have left
their lists (R142, R143). -/
def Hub.fenceStart (h : Hub) (p : PortId) : Hub :=
  ((h.fenceFrees p).fenceLatch p).updPort p (fun x => { x with hold := [], stack := [] })

theorem Hub.fenceFrees_port (h : Hub) (p q : PortId) : (h.fenceFrees p).port q =
    if q = p then { h.port p with state := .fenced, filling := [], claim := .none } else h.port q := by
  simp only [Hub.fenceFrees, Hub.fenceClaim, Hub.endWait_port, Hub.updPort_port, Hub.freeAll_rest, if_true]
  split <;> rfl

theorem Hub.fenceLatch_port (h : Hub) (p q : PortId) : (h.fenceLatch p).port q =
    let told := (h.port q).told
      (((h.port p).latch.notices.filter (fun n => n.requester == q)).map (fun n => .preemptCancelled p n.cls))
    if q = p then { told with latch := .clear } else told := by
  simp only [Hub.fenceLatch, Hub.updPort_port, Hub.foldl_post_port]
  split
  · next e => rw [e]
  · rfl

theorem Hub.fenceLatch_sameBeyond (h : Hub) (p : PortId) :
    h.SameBeyond (h.fenceLatch p) { ports := fun _ => True } :=
  (h.foldl_post_sameBeyond p _).trans ((Hub.updPort_sameBeyond _ p _).mono {})

/-- The port is FENCED before its latch is cleared, and so hears nothing of its own notices (R150). -/
theorem Hub.fenceFrees_fenceLatch_port (h : Hub) (p : PortId) : ((h.fenceFrees p).fenceLatch p).port p =
    { h.port p with state := .fenced, filling := [], claim := .none, latch := .clear } := by
  rw [Hub.fenceLatch_port, if_pos rfl, Hub.fenceFrees_port, if_pos rfl, Port.told_offline rfl]

theorem Hub.freeAll_frame (h : Hub) {l : List FrameId} {j : FrameId} (kept : j ∉ l) :
    (h.freeAll l).frame j = h.frame j := by
  induction l generalizing h with
  | nil => rfl
  | cons i l ih =>
    obtain ⟨first, rest⟩ := not_or.mp (mt List.mem_cons.mpr kept)
    unfold Hub.freeAll
    split
    · rw [ih _ rest, Hub.freeFrame_frame, if_neg first]
    · exact ih h rest

/-- The first four steps of a fence do what R139 to R142 say. -/
theorem Hub.fenceStart_starts (h : Hub) (p : PortId) : h.FenceStarts (h.fenceStart p) p where
  port := by rw [Hub.fenceStart, Hub.updPort_port, if_pos rfl, Hub.fenceFrees_fenceLatch_port]
  others q hq := by
    rw [Hub.fenceStart, Hub.updPort_port, if_neg hq, Hub.fenceLatch_port, if_neg hq, Hub.fenceFrees_port,
      Hub.fenceFrees_port, if_neg hq, if_pos rfl]
  waitList := by
    have same := ((h.fenceFrees p).fenceLatch_sameBeyond p).waitList id
    obtain ⟨-, -, -, waitList, -⟩ :=
      (h.updPort p (fun x => { x with state := .fenced })).freeAll_rest (h.port p).filling
    exact same.trans (congrArg (List.erase · p) waitList)
  frames i hi := by
    have same := ((h.fenceFrees p).fenceLatch_sameBeyond p).frames i id
    exact same.trans (Hub.freeAll_frame _ hi)
  queues k := by
    have same := ((h.fenceFrees p).fenceLatch_sameBeyond p).classes k id
    obtain ⟨-, queues, -⟩ :=
      (h.updPort p (fun x => { x with state := .fenced })).freeAll_rest (h.port p).filling
    exact (congrArg ClassRec.queue same).trans (queues k)

/-! ### The fifth step at the fenced port (R143) -/

/-- A fence is its first four steps, the reclaim of the frames held and stacked, and the report (R139 to R144). -/
theorem Hub.fence_eq (h : Hub) (p : PortId) (why : FenceReason) : h.fence p why =
    ((h.port p).reclaimOrder.foldl (fun g i => g.reclaim p i) (h.fenceStart p)).updPort p
      (fun y => { y with notices := [(h.port p).fenceReport why] }) := by
  have order : (((h.fenceFrees p).fenceLatch p).port p).reclaimOrder = (h.port p).reclaimOrder := by
    rw [Hub.fenceFrees_fenceLatch_port]
    rfl
  rw [← order]
  rfl

/-- A frame made available passes over the port named, and tells it nothing where it is not ONLINE (R87, R150). -/
theorem Hub.makeAvailable_port_passed (off : h.online p = false) (i : FrameId) (c : Context) (cause : Cause) :
    (h.makeAvailable i c cause (some p)).1.port p = h.port p := by
  unfold Hub.makeAvailable
  cases found : h.offer c (some p) with
  | none =>
    obtain ⟨ns, told⟩ := h.enqueue_port i c cause p
    exact told.trans (Port.told_offline off ns)
  | some q =>
    obtain ⟨takes, -⟩ := Hub.offer_some found
    obtain ⟨-, ports, -⟩ := h.grant_parts i { c with cause := some cause } q
    exact (ports p).trans (if_neg (Hub.ne_of_claimTakes takes).symm)

/-- A reclaim leaves the fenced port as it is (R143). -/
theorem Hub.reclaim_port_self (off : h.online p = false) (i : FrameId) : (h.reclaim p i).port p = h.port p := by
  unfold Hub.reclaim
  split
  · rfl
  · next c _ =>
    have given := Hub.makeAvailable_port_passed off i c .reclaimed
    dsimp only
    split
    · exact given
    · next other => rw [Hub.post_port, if_neg (Ne.symm other), given]

theorem Hub.foldl_reclaim_port_self (off : h.online p = false) (l : List FrameId) :
    (l.foldl (fun g i => g.reclaim p i) h).port p = h.port p := by
  induction l generalizing h with
  | nil => rfl
  | cons i l ih =>
    have same := Hub.reclaim_port_self off i
    exact (ih (by rw [Hub.online, same]; exact off)).trans same

theorem Hub.fenceStart_offline (h : Hub) (p : PortId) : (h.fenceStart p).online p = false := by
  rw [Hub.online, (h.fenceStart_starts p).port]
  rfl

/-- The fenced port keeps its epoch and its settings, and one report (R139, R144). -/
theorem Hub.fence_port_self (h : Hub) (p : PortId) (why : FenceReason) : (h.fence p why).port p =
    { h.port p with
      state := .fenced, hold := [], filling := [], stack := [], claim := .none, latch := .clear,
      notices := [(h.port p).fenceReport why] } := by
  rw [Hub.fence_eq, Hub.updPort_port, if_pos rfl, Hub.foldl_reclaim_port_self (h.fenceStart_offline p),
    (h.fenceStart_starts p).port]

end Fence

end Sys2Proof.Machine
end

section
/-!
A port that is not ONLINE is quiet (R127, R149): a deed changes the lists, the claim and the latch of an ONLINE port
only, and the deeds that take a port out of its session leave it with none of them.
-/
open Sys2Proof Sys2Proof.Machine
namespace Sys2Proof.Machine

/-! ### One quiet port -/

section Ports
variable {x : Port}

theorem Port.quietOffline_of_online (on : x.state.isOnline = true) : x.QuietOffline := fun off => by
  rw [on] at off
  cases off

/-- A quiet port with a claim or a notice in its latch is ONLINE. -/
theorem Port.QuietOffline.online (hx : x.QuietOffline) (busy : x.claim ≠ .none ∨ x.latch ≠ .clear) :
    x.state.isOnline = true := by
  by_contra off
  obtain ⟨-, -, -, claim, latch, -⟩ := hx (Bool.eq_false_iff.mpr off)
  exact busy.elim (· claim) (· latch)

theorem Port.QuietOffline.told (hx : x.QuietOffline) (ns : List Notice) : (x.told ns).QuietOffline := by
  cases on : x.state.isOnline with
  | false => rwa [Port.told_offline on]
  | true =>
    obtain ⟨state, -⟩ := x.told_rest ns
    exact Port.quietOffline_of_online (state.symm ▸ on)

/-- A wait that is over leaves a port quiet, with a result to read only where the port is ONLINE (R90, R91, R94). -/
theorem Port.QuietOffline.withClaim (hx : x.QuietOffline) {r : ClaimRec} (ends : x.state.isOnline = true ∨ r = .none) :
    Port.QuietOffline { x with claim := r } := by
  rcases ends with on | rfl
  · exact Port.quietOffline_of_online on
  · intro off
    obtain ⟨hold, stack, filling, -, latch, notices⟩ := hx off
    exact ⟨hold, stack, filling, rfl, latch, notices⟩

/-- A quiet port loses notices, and stays quiet (R155). -/
theorem Port.QuietOffline.withNotices (hx : x.QuietOffline) {ns : List Notice} (fewer : ns.Sublist x.notices) :
    Port.QuietOffline { x with notices := ns } := fun off => by
  obtain ⟨hold, stack, filling, claim, latch, notices⟩ := hx off
  exact ⟨hold, stack, filling, claim, latch, fun out => List.sublist_nil.mp (notices out ▸ fewer)⟩

/-- A frame that leaves its owner leaves every port quiet (R39, R58, R103). -/
theorem Port.QuietOffline.portWithout {h : Hub} {q : PortId} (hx : (h.port q).QuietOffline) (i : FrameId)
    (c : Context) : (h.portWithout i c q).QuietOffline := fun off => by
  obtain ⟨claim', -, state', -, latch', notices'⟩ := h.portWithout_rest i c q
  rw [state'] at off
  obtain ⟨hold, stack, filling, claim, latch, notices⟩ := hx off
  rw [claim', latch', state', notices']
  refine ⟨?_, ?_, ?_, claim, latch, notices⟩
  all_goals
    unfold Hub.portWithout
    cases c.place <;> dsimp only <;> (try split) <;> simp [hold, stack, filling]

/-- A tick takes no port into its session or out of it (R132). -/
theorem PortState.isOnline_tick (x : PortState) : x.tick.isOnline = x.isOnline := by cases x <;> rfl

theorem PortState.tick_of_offline {x : PortState} (off : x.isOnline = false) : x.tick = x := by
  cases x with
  | online n => cases off
  | offline => rfl
  | fenced => rfl

/-- A tick leaves a quiet port quiet, since none of its timers runs (R91, R112, R132). -/
theorem Port.QuietOffline.tick (hx : x.QuietOffline) : x.tick.QuietOffline := by
  intro off
  rw [Port.tick, PortState.isOnline_tick] at off
  obtain ⟨hold, stack, filling, claim, latch, notices⟩ := hx off
  refine ⟨hold, stack, filling, ?_, ?_, ?_⟩
  · rw [Port.tick, claim, ClaimRec.tick]
    exact nofun
  · rw [Port.tick, latch, Latch.tick]
    exact nofun
  · rw [Port.tick, PortState.tick_of_offline off]
    exact notices

end Ports

/-! ### LEAVE (R134, R135) -/

theorem Port.mayLeave_iff {x : Port} : x.mayLeave = true ↔
    x.hold = [] ∧ x.stack = [] ∧ x.filling = [] ∧ x.claim = .none ∧ x.latch.isServing = false := by
  simp [Port.mayLeave, and_assoc]

/-- What a port hears when the latch of another is cleared at its LEAVE (R126, R135). -/
def Latch.cancels (p q : PortId) : Latch → List Notice
  | .pending n _ => if n.requester = q then [.preemptCancelled p n.cls] else []
  | _ => []

/-- A LEAVE of a port that serves no notice clears its latch, and cancels the notice that was pending there. -/
theorem Hub.endSession_port (h : Hub) (p : PortId) (idle : (h.port p).latch.isServing = false) (q : PortId) :
    (h.endSession p).port q =
      if q = p then { h.port p with state := .offline, latch := .clear, notices := [] }
      else (h.port q).told ((h.port p).latch.cancels p q) := by
  unfold Hub.endSession Hub.cancelPending
  cases latch : (h.port p).latch with
  | clear => by_cases own : q = p <;> simp [Hub.updPort_port, own, latch, Latch.cancels, Port.told_nil]
  | pending n g =>
    have told : (h.post n.requester (.preemptCancelled p n.cls)).port q =
        (h.port q).told (Latch.cancels p q (.pending n g)) := by
      rw [Hub.post_port, Latch.cancels]
      by_cases own : q = n.requester
      · rw [if_pos own, if_pos own.symm, own]
      · rw [if_neg own, if_neg (Ne.symm own), Port.told_nil]
    simp only [Hub.updPort_port, if_true]
    split
    · next own =>
      subst own
      rw [told]
      unfold Port.told
      split <;> rfl
    · exact told
  | serving v => rw [latch] at idle; cases idle
  | servingPending v n => rw [latch] at idle; cases idle

theorem Hub.endSession_sameBeyond (h : Hub) (p : PortId) :
    h.SameBeyond (h.endSession p) { ports := fun _ => True } := by
  have cancelled : h.SameBeyond (h.cancelPending p) { ports := fun _ => True } := by
    unfold Hub.cancelPending
    split
    · next n _ _ =>
      exact ((h.post_tells n.requester (.preemptCancelled p n.cls)).2.mono {}).trans
        ((Hub.updPort_sameBeyond _ p _).mono {})
    · exact .refl h _
  exact cancelled.trans ((Hub.updPort_sameBeyond _ p _).mono {})

/-! ### The shared operations -/

section Quiet
variable {h g : Hub} {p : PortId} {i : FrameId} {c : Context} (hq : h.OfflineQuiet)
include hq

theorem Hub.OfflineQuiet.updPort {f : Port → Port} (quiet : (h.port p).QuietOffline → (f (h.port p)).QuietOffline) :
    (h.updPort p f).OfflineQuiet := fun q => by
  rw [Hub.updPort_port]
  split
  · exact quiet (hq p)
  · exact hq q

/-- An ONLINE port takes what it likes into its lists, its claim and its latch. -/
theorem Hub.OfflineQuiet.updOnline (on : h.online p = true) {f : Port → Port}
    (state : (f (h.port p)).state = (h.port p).state) : (h.updPort p f).OfflineQuiet :=
  hq.updPort fun _ => Port.quietOffline_of_online (state.symm ▸ on)

theorem Hub.OfflineQuiet.of_ports (ports : ∀ q, g.port q = h.port q) : g.OfflineQuiet := fun q => by
  rw [ports]
  exact hq q

/-- An ONLINE port changes as it likes, as long as it stays ONLINE. -/
theorem Hub.OfflineQuiet.of_online (on : g.online p = true) (others : ∀ q, q ≠ p → g.port q = h.port q) :
    g.OfflineQuiet := fun q => by
  by_cases own : q = p
  · subst own
    exact Port.quietOffline_of_online on
  · rw [others q own]
    exact hq q

theorem Hub.OfflineQuiet.of_told (told : ∀ q, ∃ ns, g.port q = (h.port q).told ns) : g.OfflineQuiet := fun q => by
  obtain ⟨ns, e⟩ := told q
  rw [e]
  exact (hq q).told ns

theorem Hub.OfflineQuiet.post (p : PortId) (n : Notice) : (h.post p n).OfflineQuiet := fun q => by
  rw [Hub.post_port]
  split
  · exact (hq p).told _
  · exact hq q

theorem Hub.OfflineQuiet.leaveOwner (i : FrameId) (c : Context) : (h.leaveOwner i c).OfflineQuiet := fun q => by
  rw [Hub.leaveOwner_port]
  exact (hq q).portWithout i c

theorem Hub.OfflineQuiet.isolate (i : FrameId) (c : Context) (r : IsoReason) : (h.isolate i c r).OfflineQuiet :=
  fun q => by
    obtain ⟨isolates, -⟩ := h.isolate_isolates i c r
    rw [isolates.ports]
    exact ((hq q).portWithout i c).told _

theorem Hub.OfflineQuiet.freeFrame (i : FrameId) (c : Context) : (h.freeFrame i c).OfflineQuiet :=
  let ⟨ports, _⟩ := h.freeFrame_rest i c
  hq.of_ports ports

/-- A frame made available goes to a port with a waiting claim, which is ONLINE, or to its queue (R87, R88). -/
theorem Hub.OfflineQuiet.makeAvailable (i : FrameId) (c : Context) (cause : Cause) (passed : Option PortId) :
    (h.makeAvailable i c cause passed).1.OfflineQuiet := by
  unfold Hub.makeAvailable
  split
  · next q found =>
    have waits := Hub.isWaiting_of_claimTakes (Hub.offer_some found).1
    have on : (h.port q).state.isOnline = true := (hq q).online (.inl fun e => by rw [e] at waits; cases waits)
    obtain ⟨-, ports, -⟩ := h.grant_parts i { c with cause := some cause } q
    intro r
    rw [ports]
    split
    · exact Port.quietOffline_of_online on
    · exact hq r
  · exact hq.of_told (h.enqueue_port i c cause)

theorem Hub.OfflineQuiet.enterHold (on : h.online p = true) (i : FrameId) (c : Context) :
    (h.enterHold i c p).OfflineQuiet :=
  Hub.OfflineQuiet.updOnline (h := h.putCtx i _) hq on rfl

theorem Hub.OfflineQuiet.endWait {r : ClaimRec} (ends : h.online p = true ∨ r = .none) :
    (h.endWait p r).OfflineQuiet := by
  have updated := hq.updPort (p := p) (f := fun x => { x with claim := r }) fun hx => hx.withClaim ends
  exact updated.of_ports fun _ => rfl

/-! ### Sessions and fences -/

/-- LEAVE is taken only from a port that has nothing left but a notice pending in its latch, which it cancels (R134,
R135). -/
theorem Hub.OfflineQuiet.endSession (may : (h.port p).mayLeave = true) : (h.endSession p).OfflineQuiet := fun q => by
  obtain ⟨hold, stack, filling, claim, serves⟩ := Port.mayLeave_iff.mp may
  rw [Hub.endSession_port h p serves]
  split
  · exact fun _ => ⟨hold, stack, filling, claim, rfl, fun _ => rfl⟩
  · exact (hq q).told _

/-- The four steps before the reclaim leave the fenced port with nothing (R139 to R142). -/
theorem Hub.OfflineQuiet.fenceStart (p : PortId) : (h.fenceStart p).OfflineQuiet := fun q => by
  have starts := h.fenceStart_starts p
  by_cases own : q = p
  · subst own
    rw [starts.port]
    exact fun _ => ⟨rfl, rfl, rfl, rfl, rfl, nofun⟩
  · rw [starts.others q own]
    exact (hq q).told _

theorem Hub.OfflineQuiet.reclaim (p : PortId) (i : FrameId) : (h.reclaim p i).OfflineQuiet := by
  unfold Hub.reclaim
  split
  · exact hq
  · dsimp only
    split
    · exact hq.makeAvailable _ _ _ _
    · exact (hq.makeAvailable _ _ _ _).post _ _

theorem Hub.OfflineQuiet.foldl_reclaim (p : PortId) (l : List FrameId) :
    (l.foldl (fun g i => g.reclaim p i) h).OfflineQuiet := by
  induction l generalizing h with
  | nil => exact hq
  | cons i l ih => exact ih (hq.reclaim p i)

theorem Hub.OfflineQuiet.fence (p : PortId) (why : FenceReason) : (h.fence p why).OfflineQuiet := fun q => by
  by_cases own : q = p
  · subst own
    rw [Hub.fence_port_self]
    exact fun _ => ⟨rfl, rfl, rfl, rfl, rfl, nofun⟩
  · rw [Hub.fence_eq, Hub.updPort_port, if_neg own]
    exact (hq.fenceStart p).foldl_reclaim p _ q

end Quiet

/-! ### END_PREEMPT (R121, R122) -/

theorem EndTally.deal_online (t : EndTally) (p : PortId) (i : FrameId) (q : PortId) :
    (t.deal p i).hub.online q = t.hub.online q := by
  unfold EndTally.deal
  split
  · rfl
  · split
    · simp only [Hub.online, Hub.enterHold, Hub.updPort_port]
      split
      · next e => rw [e]; rfl
      · rfl
    · exact Hub.makeAvailable_online ..

theorem Hub.OfflineQuiet.deal {t : EndTally} (hq : t.hub.OfflineQuiet) {p : PortId} (on : t.hub.online p = true)
    (i : FrameId) : (t.deal p i).hub.OfflineQuiet := by
  unfold EndTally.deal
  split
  · exact hq
  · split
    · exact hq.enterHold on _ _
    · exact hq.makeAvailable _ _ _ _

theorem Hub.OfflineQuiet.foldl_deal {t : EndTally} (hq : t.hub.OfflineQuiet) {p : PortId}
    (on : t.hub.online p = true) (l : List FrameId) : (l.foldl (fun t i => t.deal p i) t).hub.OfflineQuiet ∧
      (l.foldl (fun t i => t.deal p i) t).hub.online p = true := by
  induction l generalizing t with
  | nil => exact ⟨hq, on⟩
  | cons i l ih => exact ih (hq.deal on i) ((t.deal_online p i p).trans on)

/-! ### Every deed -/

section Deeds
variable {h g : Hub} {p : PortId} (hq : h.OfflineQuiet)
include hq

omit hq in
theorem Hub.pushVoluntary_port (h : Hub) (p : PortId) (i : FrameId) (q : PortId) :
    (h.pushVoluntary p i).port q = if q = p then
      { h.port p with
        hold := (h.port p).hold.erase i, stack := { frame := i, tag := .voluntary } :: (h.port p).stack }
      else h.port q := by
  have ports := ((h.leaveHold p i).stackFrame_rest p i).1
  simp only [Hub.pushVoluntary, Hub.updPort_port, ports]
  simp only [Hub.leaveHold, Hub.updPort_port, if_true]
  split <;> rfl

omit hq in
theorem Hub.post_online (h : Hub) (p : PortId) (n : Notice) (q : PortId) : (h.post p n).online q = h.online q := by
  obtain ⟨state, -⟩ := (h.port p).told_rest [n]
  rw [Hub.online, Hub.post_port]
  split
  · next own => rw [state, own, Hub.online]
  · rfl

/-- A frame suspended changes an ONLINE port (R99). -/
theorem Hub.OfflineQuiet.pushVoluntary (on : h.online p = true) (i : FrameId) :
    (h.pushVoluntary p i).OfflineQuiet := by
  refine hq.of_online (p := p) ?_ fun q other => ?_
  · rw [Hub.online, Hub.pushVoluntary_port, if_pos rfl]
    exact on
  · rw [Hub.pushVoluntary_port, if_neg other]

/-- A frame resumed changes an ONLINE port (R101). -/
theorem Hub.OfflineQuiet.resume (on : h.online p = true) (rest : List StackEntry) (i : FrameId) :
    ((h.updPort p (fun x => { x with stack := rest })).resumeFrame p i).OfflineQuiet := by
  have popped := hq.updOnline on (f := fun x => { x with stack := rest }) rfl
  unfold Hub.resumeFrame
  split
  · refine popped.enterHold ?_ _ _
    rw [Hub.online, Hub.updPort_port, if_pos rfl]
    exact on
  · exact popped

theorem Hub.OfflineQuiet.setLatch (on : h.online p = true) (l : Latch) : (h.setLatch p l).OfflineQuiet :=
  hq.updOnline on (f := fun x => { x with latch := l }) rfl

theorem Hub.OfflineQuiet.postUrgent (on : h.online p = true) (n : Urgent) : (h.postUrgent p n).1.OfflineQuiet := by
  unfold Hub.postUrgent
  split
  · exact hq.setLatch on _
  · exact hq
  · exact hq.setLatch on _
  · exact hq

/-- The service of a notice begins at an ONLINE port (R116, R117). -/
theorem Hub.OfflineQuiet.beginService (on : h.online p = true) (n : Urgent) : (h.beginService p n).OfflineQuiet := by
  have serving : ((h.saveHold p).setLatch p (.serving n)).OfflineQuiet := by
    refine hq.of_online (p := p) ?_ fun q other => ?_
    · simp only [Hub.online, Hub.setLatch_port, Hub.saveHold_port, if_true]
      exact on
    · simp only [Hub.setLatch_port, Hub.saveHold_port, if_neg other]
  exact serving.post _ _

/-- The service of a notice ends at an ONLINE port (R121, R122). -/
theorem Hub.OfflineQuiet.endService (on : h.online p = true) (v : Urgent) : (h.endService p v).hub.OfflineQuiet := by
  have lifted : (h.liftGroup p).hub.OfflineQuiet := hq.updOnline on rfl
  have lifted_on : (h.liftGroup p).hub.online p = true := by
    rw [Hub.online, Hub.liftGroup, Hub.updPort_port, if_pos rfl]
    exact on
  obtain ⟨dealt, dealt_on⟩ := lifted.foldl_deal lifted_on (h.port p).group
  rw [Hub.endService_hub]
  refine (dealt.post _ _).setLatch ?_ _
  rwa [Hub.post_online]

/-- A pending notice lapses at an ONLINE port, for the latch of any other is CLEAR (R113). -/
theorem Hub.OfflineQuiet.lapse {n : Urgent} {grace : Option Nat} (latch : (h.port p).latch = .pending n grace) :
    (h.lapse p n).OfflineQuiet := by
  have on : h.online p = true := (hq p).online (.inr (by rw [latch]; nofun))
  exact ((hq.updOnline on (f := fun x => { x with latch := .clear }) rfl).post _ _).post _ _

/-- A claim waits, and so can end, at an ONLINE port only (R90, R91, R94). -/
theorem Hub.OfflineQuiet.online_of_ends {r : ClaimRec}
    (ends : h.online p = true ∨ r = .none ∨ (h.port p).claim.isWaiting = true) : h.online p = true ∨ r = .none := by
  rcases ends with on | none | waits
  · exact .inl on
  · exact .inr none
  · exact .inl ((hq p).online (.inl fun e => by rw [e] at waits; cases waits))

omit hq in
theorem Hub.setClassRecord_port (h : Hub) (a : ClassSetArgs) (q : PortId) :
    (h.setClassRecord a).port q = h.port q := by
  have restarted : ∀ (l : List FrameId) (g : Hub), (g.restartWaits l).port q = g.port q := by
    intro l
    induction l with
    | nil => exact fun _ => rfl
    | cons i l ih =>
      intro g
      unfold Hub.restartWaits
      split
      · split <;> exact ih _
      · exact ih _
  unfold Hub.setClassRecord
  dsimp only
  split
  · rfl
  · exact restarted _ _

omit hq in
theorem Hub.promote_port (h : Hub) (k : ClassId) (b : Prio) (q : PortId) : (h.promote k b).port q = h.port q := by
  unfold Hub.promote
  dsimp only
  split
  · rfl
  · exact (Hub.setBand_rest _ _ _).1 q

theorem Hub.Deed.offlineQuiet (d : h.Deed g) : g.OfflineQuiet := by
  cases d with
  | join off lease grace => exact hq.updPort fun _ => Port.quietOffline_of_online rfl
  | leave on may => exact hq.endSession may
  | subscribe on => exact hq.updOnline on rfl
  | @restartLease p =>
    refine hq.updPort fun hx => ?_
    split
    · exact Port.quietOffline_of_online rfl
    · exact hx
  | @goOffline p off =>
    refine hq.updPort fun hx _ => ?_
    obtain ⟨hold, stack, filling, claim, latch, -⟩ := hx off
    exact ⟨hold, stack, filling, claim, latch, fun _ => rfl⟩
  | isolate on used owned => exact hq.isolate _ _ _
  | release on used owned => exact (hq.leaveOwner _ _).makeAvailable _ _ _ _
  | free on used owned => exact (hq.leaveOwner _ _).freeFrame _ _
  | @discard i c used isolated =>
    exact Hub.OfflineQuiet.freeFrame (h := h.leaveIsolation i) (hq.of_ports fun _ => rfl) _ _
  | edit on used owned amends => exact hq.of_ports fun _ => rfl
  | stayIsolated used isolated amends => exact hq.of_ports fun _ => rfl
  | @repair i c k check used isolated amends =>
    exact Hub.OfflineQuiet.makeAvailable (h := h.leaveIsolation i) (hq.of_ports fun _ => rfl) _ _ _ _
  | @claim p i c k on room queued used allowed =>
    exact Hub.OfflineQuiet.enterHold (h := h.updClass c.control.cls _) (hq.of_ports fun _ => rfl) on _ _
  | @wait p m n on mask time room idle empty =>
    have placed := hq.updOnline on (f := fun x => { x with claim := .waiting m n }) rfl
    exact placed.of_ports fun _ => rfl
  | endWait ended on => exact hq.endWait (hq.online_of_ends on)
  | readClaim result => exact hq.updPort fun hx => hx.withClaim (.inr rfl)
  | suspend on used held room => exact hq.pushVoluntary on _
  | resume on top tag room => exact hq.resume on _ _
  | preempt other on => exact hq.postUrgent on _
  | takePreempt on latch room => exact hq.beginService on _
  | endPreempt on latch held flat room => exact hq.endService on _
  | readNotices => exact hq.updPort fun hx => hx.withNotices (List.drop_sublist ..)
  | setClass positive bounded aging closed fits => exact hq.of_ports (h.setClassRecord_port _)
  | fence on => exact hq.fence _ _
  | lapse latch => exact hq.lapse latch
  | promote => exact hq.of_ports (h.promote_port _ _)
  | tick =>
    intro q
    rw [Hub.tick_port]
    exact (hq q).tick

theorem Hub.Opens.offlineQuiet (o : h.Opens g) : g.OfflineQuiet := by
  cases o with
  | @park p i c len check on enabled legal positive short filling room lowest space =>
    refine hq.of_online (p := p) ?_ fun q other => ?_
    · rw [Hub.online, Hub.openPark_port, if_pos rfl]
      exact on
    · rw [Hub.openPark_port, if_neg other]

theorem Hub.Writes.offlineQuiet (w : h.Writes g) : g.OfflineQuiet := by
  have stored : ∀ c off ws, (h.storeWords c off ws).OfflineQuiet := fun c off ws =>
    let ⟨_, _, ports, _, _⟩ := h.storeWords_rest c off ws
    hq.of_ports ports
  cases w with
  | fill on used filling fits => exact (stored _ _ _).of_ports fun _ => rfl
  | modify on used held => exact (stored _ _ _).of_ports fun _ => rfl
  | rewrite used isolated => exact stored _ _ _
  | strike => exact hq.of_ports fun _ => rfl

end Deeds

theorem Hub.reset_offlineQuiet : Hub.reset.OfflineQuiet := fun p => by
  rw [Hub.reset_port]
  exact fun _ => ⟨rfl, rfl, rfl, rfl, rfl, fun _ => rfl⟩

end Sys2Proof.Machine

/-- Settles O59: a deed changes the lists, the claim and the latch of an ONLINE port only, and a LEAVE or a fence leaves
its port with none of them. -/
theorem stepsKeepOfflinePortsQuiet : Obligations.StepsKeepOfflinePortsQuiet :=
  fun _ _ hq e => step_keeps (Law := Hub.OfflineQuiet) Hub.reset_offlineQuiet (fun hq d => d.offlineQuiet hq)
    (fun hq o => o.offlineQuiet hq) (fun hq w => w.offlineQuiet hq) hq e
end

section
/-!
Hub reset and the time until the hub is ready (R147, R148): the state after reset has every law, and a hub that is not
ready answers every window with IDLE words and counts no timer.
-/
open Sys2Proof Sys2Proof.Machine
namespace Sys2Proof.Machine

/-! ### The laws that hub reset has (R147) -/

theorem Hub.reset_populationsTrue : Hub.reset.PopulationsTrue := fun k => by
  have none_in : Hub.reset.membersOf k = [] :=
    List.filter_eq_nil_iff.mpr fun i _ => by simp [Hub.ctx, Frame.reset]
  rw [none_in, Hub.reset_cls]
  exact ⟨rfl, Nat.zero_le _, nofun⟩

theorem Hub.reset_queuesBanded : Hub.reset.QueuesBanded := fun k => by
  rw [Hub.reset_cls]
  exact .nil

theorem State.reset_linksLegal : State.reset.LinksLegal := fun p => by
  rw [State.reset_link]
  exact ⟨nofun, nofun, nofun, nofun⟩

theorem State.reset_responsesFit : State.reset.ResponsesFit := fun p => by
  rw [State.reset_link]
  exact ⟨nofun, nofun⟩

/-! ### A hub that is not ready (R148) -/

section Starting
variable {s : State} (starting : s.isReady = false)
include starting

/-- A tick counts towards readiness, and no timer runs. -/
theorem State.tick_of_starting : ∃ r, exec .timebaseTick s = .next { s with readiness := r } := by
  simp only [exec, execTimebaseTick]
  split
  · exact ⟨_, rfl⟩
  · next ready =>
    rw [State.isReady, ready] at starting
    cases starting

theorem State.attn_of_starting (p : PortId) : s.attn p = false := by
  rw [State.attn, starting]
  rfl

theorem exec_requestFrame_of_starting (p : PortId) (hsi : List Word) :
    exec (.requestFrame p hsi) s = .next (s.idleWindow p hsi.length) := by
  simp [exec, execRequestFrame, starting]

theorem exec_readWindow_of_starting (p : PortId) (n : Nat) :
    exec (.readWindow p n) s = .next (s.idleWindow p n) := by
  simp [exec, execReadWindow, starting]

theorem exec_breakFrame_of_starting (p : PortId) : exec (.breakFrame p) s = .next (s.idleWindow p 1) := by
  simp [exec, execBreak, starting]

end Starting

end Sys2Proof.Machine

/-- Settles O51: each law holds of the values of R147, most of them because no frame is in use and no port ONLINE. -/
theorem resetHasEveryLaw : Obligations.ResetHasEveryLaw := by
  obtain ⟨memory, generations, fields, classes, sessions, records⟩ := Hub.reset_rangesLegal
  obtain ⟨waits, missed⟩ := (Hub.served_iff _).mp Hub.reset_served
  exact ⟨memory, generations, fields, classes, sessions, (Hub.filed_iff _).mpr Hub.reset_filed,
    Hub.reset_blocksConserved, Hub.reset_populationsTrue, Hub.reset_queuesBanded, waits, missed,
    Hub.reset_portsBounded, Hub.reset_offlineQuiet, records, State.reset_linksLegal, State.reset_responsesFit⟩

/-- Settles O40: hub reset replaces every block by its value in the table of R147, and a hub that is not ready has one
behaviour for each window and each tick. -/
theorem hubResetThenReady : Obligations.HubResetThenReady := by
  refine ⟨fun s => ⟨{ State.reset with pending := s.pending }, rfl, Hub.reset_frame, Hub.reset_block,
    Memory.reset_read, Hub.reset_cls, Hub.reset_port, rfl, rfl, fun p => ?_, rfl, rfl⟩, fun _ => rfl,
    fun s starting => ⟨State.tick_of_starting starting, fun p => ⟨State.attn_of_starting starting p,
      exec_requestFrame_of_starting starting p, exec_readWindow_of_starting starting p,
      exec_breakFrame_of_starting starting p⟩⟩⟩
  have link : State.link { State.reset with pending := s.pending } p = Link.reset := State.reset_link p
  rw [link]
  exact ⟨rfl, rfl, rfl, rfl, State.attn_of_starting rfl p⟩
end

section
/-!
The session requests: JOIN and SUBSCRIBE (R129, R130, R138), LEAVE (R134, R135), and the five requests that read (R133,
R136, R137, R162, R36).
-/
open Sys2Proof Sys2Proof.Machine
namespace Sys2Proof.Machine

/-! ### The words of these requests (R180) -/

/-- The word of a CLASS_GET or NOTICE_READ gives back its three bits. -/
theorem readThree_threeWord (n : BitVec 3) : readThree [threeWord n] = some n := by
  have clear : clearIn (threeWord n) 0xFFFFFFF8#32 = true := by
    rw [clearIn, threeWord, show (0xFFFFFFF8#32) = 0x1FFFFFFF#29 ++ 0#3 from rfl, BitVec.and_append]
    simp only [BitVec.zero_and, BitVec.and_zero]
    rfl
  have three : bits (threeWord n) 0 3 = n := by
    rw [bits, threeWord, BitVec.extractLsb'_append_eq_of_add_le (by decide), BitVec.extractLsb'_eq_self]
  rw [readThree, clear, three, if_pos rfl]

/-- The words of a JOIN give back the session settings they carry. -/
theorem readJoin_joinWords {t : Settings} (lease : t.lease < 65536) (grace : t.grace < 65536) :
    readJoin (joinWords t) = some t := by
  have clear_mask := readMask_maskWord t.mask
  rw [readMask] at clear_mask
  obtain ⟨clear, mask⟩ := Option.ite_none_right_eq_some.mp clear_mask
  have low : bits (BitVec.ofNat 16 t.grace ++ BitVec.ofNat 16 t.lease) 0 16 = BitVec.ofNat 16 t.lease := by
    rw [bits, BitVec.extractLsb'_append_eq_of_add_le (by decide), BitVec.extractLsb'_eq_self]
  rw [joinWords, readJoin, clear, if_pos rfl, low, upper_append, toNat_ofNat_of_lt lease, toNat_ofNat_of_lt grace,
    Option.some.inj mask]

/-! ### JOIN and SUBSCRIBE (R129, R130, R138) -/

theorem Hub.session_passes {h : Hub} {k : ReqKind} {p : PortId} (passes : sessionRefusal k (h.port p).state = none)
    (body : Hub × Reply) : h.session k p body = body := by
  rw [Hub.session, passes]

/-- JOIN and HUB_INFO pass the session check in every state (R128). -/
theorem sessionRefusal_join (x : PortState) : sessionRefusal .join x = none := by cases x <;> rfl

theorem sessionRefusal_hubInfo (x : PortState) : sessionRefusal .hubInfo x = none := by cases x <;> rfl

/-- STATUS passes the session check in every state but OFFLINE (R128). -/
theorem sessionRefusal_status {x : PortState} (joined : x ≠ .offline) : sessionRefusal .status x = none := by
  cases x with
  | offline => exact absurd rfl joined
  | online n => rfl
  | fenced => rfl

theorem inPeriod_iff (n : Nat) : inPeriod n = true ↔ 10 ≤ n ∧ n ≤ 60000 := decide_eq_true_iff

theorem zeroOrPeriod_iff (n : Nat) : zeroOrPeriod n = true ↔ n = 0 ∨ 10 ≤ n ∧ n ≤ 60000 := by
  rw [zeroOrPeriod, Bool.or_eq_true, inPeriod_iff, beq_iff_eq]

section Requests
variable {s : State} {p : PortId}

theorem bodyOf_join (tag : Tag) {t : Settings} (lease : t.lease < 65536) (grace : t.grace < 65536) :
    bodyOf s.hub (.join p tag (joinWords t)) = s.hub.joinWith p t := by
  show s.hub.session .join p (s.hub.form (readJoin (joinWords t)) (s.hub.joinWith p)) = _
  rw [Hub.session_passes (sessionRefusal_join _), readJoin_joinWords lease grace]
  rfl

/-- R129: the conditions of JOIN in their order. -/
theorem Hub.joinWith_alreadyJoined {h : Hub} (on : h.online p = true) (t : Settings) :
    h.joinWith p t = (h, .bare .alreadyJoined) := if_pos on

theorem Hub.joinWith_badValue {h : Hub} (off : ¬ h.online p = true) {t : Settings}
    (bad : ¬ (10 ≤ t.lease ∧ t.lease ≤ 60000) ∨ ¬ (t.grace = 0 ∨ 10 ≤ t.grace ∧ t.grace ≤ 60000)) :
    h.joinWith p t = (h, .bare .badValue) := by
  rw [← inPeriod_iff, ← zeroOrPeriod_iff, ← not_and_or, ← Bool.and_eq_true] at bad
  exact (if_neg off).trans (if_neg bad)

/-- R130: the session begins, and its epoch and the capability record are answered. -/
theorem Hub.joinWith_taken {h : Hub} (off : ¬ h.online p = true) {t : Settings}
    (good : ¬ (¬ (10 ≤ t.lease ∧ t.lease ≤ 60000) ∨ ¬ (t.grace = 0 ∨ 10 ≤ t.grace ∧ t.grace ≤ 60000))) :
    h.joinWith p t = (h.beginSession p t,
      .okWith (halfWord ((h.port p).epoch + 1) :: (h.beginSession p t).capability)) := by
  rw [← inPeriod_iff, ← zeroOrPeriod_iff, ← not_and_or, ← Bool.and_eq_true, not_not] at good
  have epoch : ((h.beginSession p t).port p).epoch = (h.port p).epoch + 1 := by
    rw [Hub.beginSession, Hub.updPort_port, if_pos rfl]
  rw [← epoch]
  exact (if_neg off).trans (if_pos good)

theorem bodyOf_subscribe (on : s.hub.online p = true) (tag : Tag) (m : ClassSet) :
    bodyOf s.hub (.subscribe p tag [maskWord m 0]) = (s.hub.setSubscription p m, .bare .ok) := by
  show s.hub.session .subscribe p (s.hub.form (readMask [maskWord m 0])
    fun m => (s.hub.setSubscription p m, .bare .ok)) = _
  rw [Hub.session_online on, readMask_maskWord]
  rfl

/-! ### LEAVE (R134) -/

theorem bodyOf_leave (on : s.hub.online p = true) (tag : Tag) : bodyOf s.hub (.leave p tag []) =
    if (s.hub.port p).mayLeave then (s.hub.endSession p, .bare .ok) else (s.hub, .bare .busyHolding) :=
  Hub.session_online on ..

/-! ### The requests that read (R133, R136, R137, R162, R36) -/

theorem bodyOf_renew (on : s.hub.online p = true) (tag : Tag) :
    bodyOf s.hub (.renew p tag []) = (s.hub, .okWith [halfWord (s.hub.port p).epoch]) := Hub.session_online on ..

theorem bodyOf_status (joined : (s.hub.port p).state ≠ .offline) (tag : Tag) :
    bodyOf s.hub (.status p tag []) = (s.hub, .okWith (s.hub.statusWords p)) :=
  Hub.session_passes (sessionRefusal_status joined) _

theorem bodyOf_hubInfo (tag : Tag) : bodyOf s.hub (.hubInfo p tag []) = (s.hub, .okWith s.hub.capability) :=
  Hub.session_passes (sessionRefusal_hubInfo _) _

theorem bodyOf_isolationList (on : s.hub.online p = true) (tag : Tag) : bodyOf s.hub (.isolationList p tag []) =
    (s.hub, .okWith (valueWord s.hub.isolation.length :: pairWords (s.hub.isolation.map s.hub.handle))) :=
  Hub.session_online on ..

theorem bodyOf_classGet (on : s.hub.online p = true) (tag : Tag) (k : ClassId) :
    bodyOf s.hub (.classGet p tag [threeWord (BitVec.ofFin k)]) =
      (s.hub, .okWith ((s.hub.classItems k).map valueWord)) := by
  show s.hub.session .classGet p (s.hub.form (readThree [threeWord (BitVec.ofFin k)])
    fun c => (s.hub, .okWith ((s.hub.classItems c.toFin).map valueWord))) = _
  rw [Hub.session_online on, readThree_threeWord]
  rfl

/-- The length of a band counts the queued frames of its priority (R36). -/
theorem Hub.bandLength_eq (h : Hub) (k : ClassId) (b : Prio) :
    h.bandLength k b = (h.cls k).queue.countP (fun j => h.effOf j == b) := List.countP_eq_length_filter.symm

theorem Hub.classItems_eq (h : Hub) (k : ClassId) : h.classItems k =
    let band (b : Prio) : Nat := (h.cls k).queue.countP (fun j => h.effOf j == b)
    [k.val, (h.cls k).enabled.toNat, (h.cls k).limit, (h.cls k).aging, (h.cls k).population,
      (h.cls k).queue.length, band 3, band 2, band 1, band 0] := by
  have coding : (if (h.cls k).enabled = true then 1 else 0) = (h.cls k).enabled.toNat := by
    cases (h.cls k).enabled <;> rfl
  simp only [Hub.classItems, Hub.bandLength_eq, coding]

end Requests

end Sys2Proof.Machine

/-- Settles O6: past its two refusals JOIN is the beginning of the session, and SUBSCRIBE replaces the mask of the
settings an ONLINE port has. -/
theorem joinAndSubscribeSetTheSession : Obligations.JoinAndSubscribeSetTheSession := by
  refine ⟨fun s p tag t lease grace admitted => ?_, fun s p tag m t admitted on settings => ?_⟩
  · have body := bodyOf_join (s := s) (p := p) tag lease grace
    split_ifs with on bad
    · exact refused_body rfl admitted (body.trans (Hub.joinWith_alreadyJoined on t))
    · exact refused_body rfl admitted (body.trans (Hub.joinWith_badValue on bad))
    · exact takes_body_eq rfl admitted (body.trans (Hub.joinWith_taken on bad)) rfl
  · refine takes_body_eq rfl admitted (bodyOf_subscribe on tag m) ⟨?_, Hub.updPort_sameBeyond ..⟩
    rw [Hub.setSubscription, Hub.updPort_port, if_pos rfl, settings]
    rfl

/-- Settles O8: R134 is the condition of the request, and the end of the session changes the leaving port and tells the
requester of a pending notice. -/
theorem leaveEndsTheSession : Obligations.LeaveEndsTheSession := by
  intro s p tag admitted on x
  have body := bodyOf_leave (s := s) on tag
  split_ifs with free
  · rw [if_pos (Port.mayLeave_iff.mpr free)] at body
    obtain ⟨-, -, -, -, idle⟩ := free
    have ports := s.hub.endSession_port p idle
    refine takes_body_eq rfl admitted body ⟨?_, fun q other => ?_, s.hub.endSession_sameBeyond p⟩
    · rw [ports, if_pos rfl]
    · rw [ports, if_neg other]
      rfl
  · rw [if_neg (mt Port.mayLeave_iff.mp free)] at body
    exact refused_body rfl admitted body

/-- Settles O9: each of the five is answered from the hub as it stands. -/
theorem readingRequestsChangeNothing : Obligations.ReadingRequestsChangeNothing := by
  refine ⟨fun s p tag admitted on => takes_body_eq rfl admitted (bodyOf_renew on tag) rfl,
    fun s p tag admitted joined => takes_body_eq rfl admitted (bodyOf_status joined tag) rfl,
    fun s p tag admitted => takes_body_eq rfl admitted (bodyOf_hubInfo tag) rfl,
    fun s p tag admitted on => takes_body_eq rfl admitted (bodyOf_isolationList on tag) rfl,
    fun s p tag k admitted on => ?_⟩
  have body := bodyOf_classGet (s := s) on tag k
  rw [Hub.classItems_eq] at body
  exact takes_body_eq rfl admitted body rfl
end

section
/-!
The session check (R128) and the epochs (R131). Past its session check no request is refused by it, and every request
but JOIN keeps every epoch: `Hub.Proceeds` says both of a request's body at once.
-/
open Sys2Proof Sys2Proof.Machine
namespace Sys2Proof.Machine

/-! ### What keeps every epoch -/

/-- Every port is under the epoch it had. -/
structure Hub.SameEpochs (h g : Hub) : Prop where
  ports : ∀ q, (g.port q).epoch = (h.port q).epoch

section Operations
variable {h g : Hub} {p : PortId} {i : FrameId} {c : Context}

theorem Hub.SameEpochs.refl (h : Hub) : h.SameEpochs h := ⟨fun _ => rfl⟩

theorem Hub.SameEpochs.trans {k : Hub} (x : h.SameEpochs g) (y : g.SameEpochs k) : h.SameEpochs k :=
  ⟨fun q => (y.ports q).trans (x.ports q)⟩

theorem Hub.SameEpochs.foldl {α : Type} {f : Hub → α → Hub} (hf : ∀ (g : Hub) a, g.SameEpochs (f g a))
    (l : List α) : h.SameEpochs (l.foldl f h) := by
  induction l generalizing h with
  | nil => exact .refl h
  | cons a l ih => exact (hf h a).trans ih

theorem Hub.SameEpochs.of_ports (ports : ∀ q, g.port q = h.port q) : h.SameEpochs g :=
  ⟨fun q => by rw [ports]⟩

theorem Hub.updPort_epochs {f : Port → Port} (epoch : (f (h.port p)).epoch = (h.port p).epoch) :
    h.SameEpochs (h.updPort p f) := .mk fun q => by
  rw [Hub.updPort_port]
  split
  · next own => rw [own, epoch]
  · rfl

theorem Port.told_epoch (x : Port) (ns : List Notice) : (x.told ns).epoch = x.epoch := by
  obtain ⟨-, -, -, -, -, -, -, epoch⟩ := x.told_rest ns
  exact epoch

theorem Hub.post_epochs (h : Hub) (p : PortId) (n : Notice) : h.SameEpochs (h.post p n) := .mk fun q => by
  rw [Hub.post_port]
  split
  · next own => rw [Port.told_epoch, own]
  · rfl

theorem Hub.leaveOwner_epochs (h : Hub) (i : FrameId) (c : Context) : h.SameEpochs (h.leaveOwner i c) := .mk fun q => by
  obtain ⟨-, -, -, epoch, -⟩ := h.portWithout_rest i c q
  rw [Hub.leaveOwner_port, epoch]

theorem Hub.isolate_epochs (h : Hub) (i : FrameId) (c : Context) (r : IsoReason) :
    h.SameEpochs (h.isolate i c r) := .mk fun q => by
  obtain ⟨isolates, -⟩ := h.isolate_isolates i c r
  obtain ⟨-, -, -, epoch, -⟩ := h.portWithout_rest i c q
  rw [isolates.ports, Port.told_epoch, epoch]

theorem Hub.freeFrame_epochs (h : Hub) (i : FrameId) (c : Context) : h.SameEpochs (h.freeFrame i c) :=
  .of_ports (h.freeFrame_rest i c).1

theorem Hub.putCtx_epochs (h : Hub) (i : FrameId) (c : Context) : h.SameEpochs (h.putCtx i c) := .of_ports fun _ => rfl

theorem Hub.updClass_epochs (h : Hub) (k : ClassId) (f : ClassRec → ClassRec) : h.SameEpochs (h.updClass k f) :=
  .of_ports fun _ => rfl

theorem Hub.enterHold_epochs (h : Hub) (i : FrameId) (c : Context) (p : PortId) :
    h.SameEpochs (h.enterHold i c p) :=
  (h.putCtx_epochs i { c with place := .held p false }).trans
    (Hub.updPort_epochs (f := fun x => { x with hold := x.hold ++ [i] }) rfl)

theorem Hub.makeAvailable_epochs (h : Hub) (i : FrameId) (c : Context) (cause : Cause) (passed : Option PortId) :
    h.SameEpochs (h.makeAvailable i c cause passed).1 := .mk fun q => by
  unfold Hub.makeAvailable
  split
  · next r _ =>
    obtain ⟨-, ports, -⟩ := h.grant_parts i { c with cause := some cause } r
    rw [ports]
    split
    · next own => rw [own]
    · rfl
  · obtain ⟨ns, told⟩ := h.enqueue_port i c cause q
    rw [told, Port.told_epoch]

theorem Hub.claimFrame_epochs (h : Hub) (p : PortId) (i : FrameId) (c : Context) :
    h.SameEpochs (h.claimFrame p i c) :=
  (h.updClass_epochs c.control.cls (fun x => { x with queue := x.queue.erase i })).trans (Hub.enterHold_epochs ..)

theorem Hub.claimBest_epochs {m : ClassSet} {ws : List Word} (best : h.claimBest p m = some (g, ws)) :
    h.SameEpochs g := by
  unfold Hub.claimBest at best
  split at best
  · cases best
  · split at best
    · cases best
    · cases best; exact h.claimFrame_epochs ..

theorem Hub.endWait_epochs (h : Hub) (p : PortId) (r : ClaimRec) : h.SameEpochs (h.endWait p r) := .mk fun q => by
  rw [Hub.endWait_port]
  split
  · next own => rw [own]
  · rfl

theorem Hub.setClaim_epochs (h : Hub) (p : PortId) (r : ClaimRec) : h.SameEpochs (h.setClaim p r) :=
  Hub.updPort_epochs (f := fun x => { x with claim := r }) rfl

theorem Hub.beginWait_epochs (h : Hub) (p : PortId) (m : ClassSet) (n : Nat) : h.SameEpochs (h.beginWait p m n) :=
  (Hub.updPort_epochs (f := fun x => { x with claim := .waiting m n }) rfl).trans (.of_ports fun _ => rfl)

theorem Hub.pushVoluntary_epochs (h : Hub) (p : PortId) (i : FrameId) :
    h.SameEpochs (h.pushVoluntary p i) := .mk fun q => by
  rw [Hub.pushVoluntary_port]
  split
  · next own => rw [own]
  · rfl

theorem Hub.resumeFrame_epochs (h : Hub) (p : PortId) (i : FrameId) : h.SameEpochs (h.resumeFrame p i) := by
  unfold Hub.resumeFrame
  split
  · exact h.enterHold_epochs ..
  · exact .refl h

theorem Hub.leaveIsolation_epochs (h : Hub) (i : FrameId) : h.SameEpochs (h.leaveIsolation i) := .of_ports fun _ => rfl

theorem Hub.setSubscription_epochs (h : Hub) (p : PortId) (m : ClassSet) : h.SameEpochs (h.setSubscription p m) :=
  Hub.updPort_epochs (f := fun x => { x with settings := x.settings.map (fun t => { t with mask := m }) }) rfl

theorem Hub.setLatch_epochs (h : Hub) (p : PortId) (l : Latch) : h.SameEpochs (h.setLatch p l) :=
  Hub.updPort_epochs (f := fun x => { x with latch := l }) rfl

theorem Hub.saveHold_epochs (h : Hub) (p : PortId) : h.SameEpochs (h.saveHold p) := .mk fun q => by
  rw [Hub.saveHold_port]
  split
  · next own => rw [own]
  · rfl

theorem Hub.beginService_epochs (h : Hub) (p : PortId) (n : Urgent) : h.SameEpochs (h.beginService p n) :=
  (h.saveHold_epochs p).trans ((Hub.setLatch_epochs ..).trans (Hub.post_epochs ..))

theorem EndTally.deal_epochs (t : EndTally) (p : PortId) (i : FrameId) : t.hub.SameEpochs (t.deal p i).hub := by
  unfold EndTally.deal
  split
  · exact .refl _
  · split
    · exact Hub.enterHold_epochs ..
    · exact Hub.makeAvailable_epochs ..

theorem EndTally.foldl_deal_epochs (t : EndTally) (p : PortId) (l : List FrameId) :
    t.hub.SameEpochs (l.foldl (fun t i => t.deal p i) t).hub := by
  induction l generalizing t with
  | nil => exact .refl _
  | cons i l ih => exact (t.deal_epochs p i).trans (ih _)

theorem Hub.endService_epochs (h : Hub) (p : PortId) (v : Urgent) : h.SameEpochs (h.endService p v).hub := by
  have lifted : h.SameEpochs (h.liftGroup p).hub :=
    Hub.updPort_epochs (f := fun x => { x with stack := x.stack.filter (fun e => e.tag != .preempt) }) rfl
  rw [Hub.endService_hub]
  exact (lifted.trans (EndTally.foldl_deal_epochs ..)).trans ((Hub.post_epochs ..).trans (Hub.setLatch_epochs ..))

theorem Hub.endSession_epochs (h : Hub) (p : PortId) : h.SameEpochs (h.endSession p) := by
  have cancelled : h.SameEpochs (h.cancelPending p) := by
    unfold Hub.cancelPending
    split
    · exact (h.post_epochs ..).trans (Hub.updPort_epochs rfl)
    · exact .refl h
  exact cancelled.trans (Hub.updPort_epochs rfl)

theorem Hub.storeWords_epochs (h : Hub) (c : Context) (off : Nat) (ws : List Word) :
    h.SameEpochs (h.storeWords c off ws) :=
  let ⟨_, _, ports, _⟩ := h.storeWords_rest c off ws
  .of_ports ports

theorem Hub.openPark_epochs (h : Hub) (p : PortId) (i : FrameId) (c : Control) (len : Nat) (check : BitVec 16) :
    h.SameEpochs (h.openPark p i c len check) := .mk fun q => by
  rw [Hub.openPark_port]
  split
  · next own => rw [own]
  · rfl

theorem Hub.lapse_epochs (h : Hub) (p : PortId) (n : Urgent) : h.SameEpochs (h.lapse p n) :=
  (Hub.updPort_epochs (f := fun x => { x with latch := .clear }) rfl).trans
    ((Hub.post_epochs ..).trans (Hub.post_epochs ..))

theorem Hub.restartLease_epochs (h : Hub) (p : PortId) : h.SameEpochs (h.restartLease p) :=
  Hub.updPort_epochs (by split <;> rfl)

theorem Hub.reclaim_epochs (h : Hub) (p : PortId) (i : FrameId) : h.SameEpochs (h.reclaim p i) := by
  unfold Hub.reclaim
  split
  · exact .refl h
  · dsimp only
    split
    · exact Hub.makeAvailable_epochs ..
    · exact (Hub.makeAvailable_epochs ..).trans (Hub.post_epochs ..)

theorem Hub.fenceStart_epochs (h : Hub) (p : PortId) : h.SameEpochs (h.fenceStart p) := .mk fun q => by
  have starts := h.fenceStart_starts p
  by_cases own : q = p
  · rw [own, starts.port]
  · rw [starts.others q own, Port.told_epoch]

theorem Hub.fence_epochs (h : Hub) (p : PortId) (why : FenceReason) : h.SameEpochs (h.fence p why) := by
  rw [Hub.fence_eq]
  exact (h.fenceStart_epochs p).trans ((Hub.SameEpochs.foldl (fun g i => g.reclaim_epochs p i) _).trans
    (Hub.updPort_epochs rfl))

/-! ### The bodies of the requests -/

/-- The results by which the session check refuses a request (R128). -/
def Result.ofSession : Result → Bool
  | .notJoined => true
  | .fenced => true
  | _ => false

theorem Result.ofSession_eq_false {r : Result} (other : r.ofSession = false) : r ≠ .notJoined ∧ r ≠ .fenced :=
  ⟨fun e => (by rw [e] at other; cases other), fun e => (by rw [e] at other; cases other)⟩

/-- A body keeps every epoch, and refuses by no result of the session check. -/
structure Hub.Proceeds (h : Hub) (x : Hub × Reply) : Prop where
  epochs : h.SameEpochs x.1
  result : x.2.result.ofSession = false

theorem Hub.parkOpenWith_proceeds (h : Hub) (p : PortId) (a : ParkOpenArgs) : h.Proceeds (h.parkOpenWith p a) := by
  unfold Hub.parkOpenWith
  split
  · exact ⟨.refl h, rfl⟩
  · split
    · exact ⟨.refl h, rfl⟩
    · split
      · exact ⟨.refl h, rfl⟩
      · split
        · exact ⟨.refl h, rfl⟩
        · split
          · exact ⟨.refl h, rfl⟩
          · split
            · exact ⟨.refl h, rfl⟩
            · exact ⟨h.openPark_epochs .., rfl⟩

theorem Hub.parkWriteWith_proceeds (h : Hub) (p : PortId) (i : FrameId) (c : Context) (a : Nat × List Word) :
    h.Proceeds (h.parkWriteWith p i c a) := by
  unfold Hub.parkWriteWith
  split
  · exact ⟨.refl h, rfl⟩
  · split
    · exact ⟨.refl h, rfl⟩
    · exact ⟨(h.storeWords_epochs ..).trans (Hub.putCtx_epochs ..), rfl⟩

theorem Hub.settleChecked_epochs (h : Hub) (i : FrameId) (c : Context) (cause : Cause) :
    h.SameEpochs (h.settleChecked i c cause).1 := by
  unfold Hub.settleChecked
  split
  · exact h.isolate_epochs ..
  · exact (h.leaveOwner_epochs i c).trans (Hub.makeAvailable_epochs ..)

theorem Hub.parkCloseWith_proceeds (h : Hub) (i : FrameId) (c : Context) : h.Proceeds (h.parkCloseWith i c) := by
  unfold Hub.parkCloseWith
  split
  · exact ⟨.refl h, rfl⟩
  · exact ⟨h.settleChecked_epochs .., rfl⟩

theorem Hub.reparkWith_proceeds (h : Hub) (i : FrameId) (c : Context) (check : BitVec 16) :
    h.Proceeds (h.reparkWith i c check) := ⟨h.settleChecked_epochs .., rfl⟩

theorem Hub.claimWith_proceeds (h : Hub) (p : PortId) (m : ClassSet) : h.Proceeds (h.claimWith p m) := by
  unfold Hub.claimWith
  split
  · exact ⟨.refl h, rfl⟩
  · split
    · exact ⟨.refl h, rfl⟩
    · split
      · exact ⟨.refl h, rfl⟩
      · next best => exact ⟨Hub.claimBest_epochs best, rfl⟩

theorem Hub.readImageWith_proceeds (h : Hub) (i : FrameId) (c : Context) (a : Nat × Nat) :
    h.Proceeds (h.readImageWith i c a) := by
  unfold Hub.readImageWith
  split
  · exact ⟨.refl h, rfl⟩
  · split
    · exact ⟨h.isolate_epochs .., rfl⟩
    · exact ⟨.refl h, rfl⟩

theorem Hub.writeImageWith_proceeds (h : Hub) (p : PortId) (i : FrameId) (c : Context) (a : Nat × List Word) :
    h.Proceeds (h.writeImageWith p i c a) := by
  unfold Hub.writeImageWith
  split
  · exact ⟨.refl h, rfl⟩
  · exact ⟨(h.storeWords_epochs ..).trans (Hub.putCtx_epochs ..), rfl⟩

theorem Hub.editWith_proceeds (h : Hub) (i : FrameId) (c : Context) (f : FieldChange) :
    h.Proceeds (h.editWith i c f) := by
  unfold Hub.editWith
  split
  · exact ⟨.refl h, rfl⟩
  · split
    · exact ⟨.refl h, rfl⟩
    · split
      · exact ⟨.refl h, rfl⟩
      · exact ⟨h.putCtx_epochs .., rfl⟩

theorem Hub.returnWith_proceeds (h : Hub) (p : PortId) (i : FrameId) (c : Context) :
    h.Proceeds (h.returnWith p i c) := by
  have left : h.SameEpochs (h.leaveHold p i) := Hub.updPort_epochs rfl
  unfold Hub.returnWith
  split
  · exact ⟨.refl h, rfl⟩
  · refine ⟨?_, rfl⟩
    dsimp only
    unfold Hub.returnEndsWait
    split
    · exact (left.trans (Hub.makeAvailable_epochs ..)).trans (Hub.endWait_epochs ..)
    · exact left.trans (Hub.makeAvailable_epochs ..)

theorem Hub.claimWaitWith_proceeds (h : Hub) (p : PortId) (a : ClassSet × Nat) :
    h.Proceeds (h.claimWaitWith p a) := by
  unfold Hub.claimWaitWith
  split
  · exact ⟨.refl h, rfl⟩
  · split
    · exact ⟨.refl h, rfl⟩
    · split
      · exact ⟨.refl h, rfl⟩
      · split
        · next best => exact ⟨Hub.claimBest_epochs best, rfl⟩
        · exact ⟨h.beginWait_epochs .., rfl⟩

theorem Hub.claimResultNow_proceeds (h : Hub) (p : PortId) : h.Proceeds (h.claimResultNow p) := by
  unfold Hub.claimResultNow
  split
  · exact ⟨.refl h, rfl⟩
  · split
    · exact ⟨(h.endWait_epochs ..).trans (Hub.setClaim_epochs ..), rfl⟩
    · exact ⟨.refl h, rfl⟩
  · exact ⟨h.setClaim_epochs .., rfl⟩
  · exact ⟨h.setClaim_epochs .., rfl⟩

theorem Hub.claimCancelNow_proceeds (h : Hub) (p : PortId) : h.Proceeds (h.claimCancelNow p) := by
  unfold Hub.claimCancelNow
  split
  · exact ⟨h.endWait_epochs .., rfl⟩
  · exact ⟨h.setClaim_epochs .., rfl⟩
  · exact ⟨h.setClaim_epochs .., rfl⟩
  · exact ⟨.refl h, rfl⟩

theorem Hub.suspendWith_proceeds (h : Hub) (p : PortId) (i : FrameId) : h.Proceeds (h.suspendWith p i) := by
  unfold Hub.suspendWith
  split
  · exact ⟨.refl h, rfl⟩
  · exact ⟨h.pushVoluntary_epochs .., rfl⟩

theorem Hub.resumeTopNow_proceeds (h : Hub) (p : PortId) : h.Proceeds (h.resumeTopNow p) := by
  unfold Hub.resumeTopNow
  split
  · exact ⟨.refl h, rfl⟩
  · split
    · exact ⟨.refl h, rfl⟩
    · split
      · exact ⟨.refl h, rfl⟩
      · exact ⟨(Hub.updPort_epochs rfl).trans (Hub.resumeFrame_epochs ..), rfl⟩

theorem Hub.preemptWith_proceeds (h : Hub) (p : PortId) (a : PortId × ClassId) : h.Proceeds (h.preemptWith p a) := by
  unfold Hub.preemptWith
  split
  · exact ⟨.refl h, rfl⟩
  · split
    · exact ⟨.refl h, rfl⟩
    · split
      · exact ⟨.refl h, rfl⟩
      · unfold Hub.postUrgent
        split
        · exact ⟨h.setLatch_epochs .., rfl⟩
        · exact ⟨.refl h, rfl⟩
        · exact ⟨h.setLatch_epochs .., rfl⟩
        · exact ⟨.refl h, rfl⟩

theorem Hub.takePreemptNow_proceeds (h : Hub) (p : PortId) : h.Proceeds (h.takePreemptNow p) := by
  unfold Hub.takePreemptNow
  split
  · split
    · exact ⟨.refl h, rfl⟩
    · dsimp only
      split
      · next best => exact ⟨(h.beginService_epochs ..).trans (Hub.claimBest_epochs best), rfl⟩
      · exact ⟨h.beginService_epochs .., rfl⟩
  · exact ⟨.refl h, rfl⟩

theorem Hub.endPreemptWith_proceeds (h : Hub) (p : PortId) (v : Urgent) : h.Proceeds (h.endPreemptWith p v) := by
  unfold Hub.endPreemptWith
  dsimp only
  split
  · exact ⟨.refl h, rfl⟩
  · split
    · exact ⟨.refl h, rfl⟩
    · split
      · exact ⟨.refl h, rfl⟩
      · exact ⟨h.endService_epochs .., rfl⟩

theorem Hub.endPreemptNow_proceeds (h : Hub) (p : PortId) : h.Proceeds (h.endPreemptNow p) := by
  unfold Hub.endPreemptNow
  split
  · exact h.endPreemptWith_proceeds ..
  · exact h.endPreemptWith_proceeds ..
  · exact ⟨.refl h, rfl⟩

theorem Hub.inspectWith_proceeds (h : Hub) (i : FrameId) (c : Context) (a : Nat × Nat) :
    h.Proceeds (h.inspectWith i c a) := by
  unfold Hub.inspectWith
  split
  · exact ⟨.refl h, rfl⟩
  · split
    · exact ⟨.refl h, rfl⟩
    · split
      · exact ⟨h.putCtx_epochs .., rfl⟩
      · exact ⟨.refl h, rfl⟩

theorem Hub.isolationWriteWith_proceeds (h : Hub) (c : Context) (a : Nat × List Word) :
    h.Proceeds (h.isolationWriteWith c a) := by
  unfold Hub.isolationWriteWith
  split
  · exact ⟨.refl h, rfl⟩
  · exact ⟨h.storeWords_epochs .., rfl⟩

theorem Hub.repairWith_proceeds (h : Hub) (i : FrameId) (c : Context) (a : RepairArgs) :
    h.Proceeds (h.repairWith i c a) := by
  unfold Hub.repairWith
  split
  · exact ⟨.refl h, rfl⟩
  · split
    · exact ⟨.refl h, rfl⟩
    · split
      · exact ⟨.refl h, rfl⟩
      · unfold Hub.repairChecked
        split
        · next r _ => exact ⟨h.putCtx_epochs .., by cases r <;> rfl⟩
        · exact ⟨(h.leaveIsolation_epochs i).trans (Hub.makeAvailable_epochs ..), rfl⟩

theorem Hub.noticeReadWith_proceeds (h : Hub) (p : PortId) (n : Nat) : h.Proceeds (h.noticeReadWith p n) := by
  unfold Hub.noticeReadWith
  split
  · exact ⟨.refl h, rfl⟩
  · exact ⟨Hub.updPort_epochs (f := fun x => { x with notices := (h.port p).notices.drop n }) rfl, rfl⟩

theorem Hub.classSetWith_proceeds (h : Hub) (a : ClassSetArgs) : h.Proceeds (h.classSetWith a) := by
  unfold Hub.classSetWith
  split
  · exact ⟨.refl h, rfl⟩
  · split
    · exact ⟨.refl h, rfl⟩
    · split
      · exact ⟨.refl h, rfl⟩
      · exact ⟨.of_ports (h.setClassRecord_port a), rfl⟩

theorem Hub.joinWith_result (h : Hub) (p : PortId) (t : Settings) :
    (h.joinWith p t).2.result.ofSession = false := by
  unfold Hub.joinWith
  split
  · rfl
  · split <;> rfl

/-- JOIN adds one to the epoch of its port, or changes no epoch (R130). -/
theorem Hub.joinWith_epoch (h : Hub) (p : PortId) (t : Settings) (q : PortId) :
    ((h.joinWith p t).1.port q).epoch = (h.port q).epoch ∨
      ((h.joinWith p t).1.port q).epoch = (h.port q).epoch + 1 ∧ q = p := by
  unfold Hub.joinWith
  split
  · exact .inl rfl
  · split
    · dsimp only
      rw [Hub.beginSession, Hub.updPort_port]
      split
      · next own => exact .inr ⟨by rw [own], own⟩
      · exact .inl rfl
    · exact .inl rfl

/-! ### Every request past its session check -/

theorem Hub.Proceeds.session_form {k : ReqKind} {α : Type} {args : Option α} {body : α → Hub × Reply}
    (past : sessionRefusal k (h.port p).state = none) (taken : ∀ a, h.Proceeds (body a)) :
    h.Proceeds (h.session k p (h.form args body)) := by
  rw [Hub.session_passes past]
  cases args with
  | none => exact ⟨.refl h, rfl⟩
  | some a => exact taken a

theorem Hub.Proceeds.session_handled {k : ReqKind} {α : Type} {accepts : Place → Bool} {payload : List Word}
    {args : Word → List Word → Option α} {body : FrameId → Context → α → Hub × Reply}
    (past : sessionRefusal k (h.port p).state = none) (taken : ∀ i c a, h.Proceeds (body i c a)) :
    h.Proceeds (h.session k p (h.handled accepts payload args body)) := by
  rw [Hub.session_passes past]
  unfold Hub.handled
  split
  · exact ⟨.refl h, rfl⟩
  · next w rest =>
    split
    · exact ⟨.refl h, rfl⟩
    · unfold Hub.form
      split
      · exact ⟨.refl h, rfl⟩
      · exact taken _ _ _

/-- Past its session check every request but JOIN keeps every epoch and is not refused by that check. -/
theorem request_proceeds {n : Instr} {r : Request} (e : requestOf n = some (p, r)) (other : r.kind ≠ .join)
    (past : sessionRefusal r.kind (h.port p).state = none) : h.Proceeds (bodyOf h n) := by
  cases n <;> simp only [requestOf, Option.some.injEq, Prod.mk.injEq, reduceCtorEq] at e
  all_goals obtain ⟨rfl, rfl⟩ := e
  case join => exact absurd rfl other
  case leave p _ _ =>
    refine .session_form past fun _ => ?_
    split
    · exact ⟨h.endSession_epochs p, rfl⟩
    · exact ⟨.refl h, rfl⟩
  case renew => exact .session_form past fun _ => ⟨.refl h, rfl⟩
  case status => exact .session_form past fun _ => ⟨.refl h, rfl⟩
  case hubInfo => exact .session_form past fun _ => ⟨.refl h, rfl⟩
  case subscribe => exact .session_form past fun m => ⟨h.setSubscription_epochs _ m, rfl⟩
  case parkOpen => exact .session_form past (h.parkOpenWith_proceeds _)
  case parkWrite => exact .session_handled past (h.parkWriteWith_proceeds _)
  case parkClose => exact .session_handled past fun i c _ => h.parkCloseWith_proceeds i c
  case parkAbort =>
    exact .session_handled past fun _ _ _ => ⟨(Hub.updPort_epochs rfl).trans (Hub.freeFrame_epochs ..), rfl⟩
  case claim => exact .session_form past (h.claimWith_proceeds _)
  case readImage => exact .session_handled past h.readImageWith_proceeds
  case writeImage => exact .session_handled past (h.writeImageWith_proceeds _)
  case edit => exact .session_handled past h.editWith_proceeds
  case returnFrame => exact .session_handled past fun i c _ => h.returnWith_proceeds _ i c
  case repark => exact .session_handled past h.reparkWith_proceeds
  case retire =>
    exact .session_handled past fun _ _ _ => ⟨(Hub.updPort_epochs rfl).trans (Hub.freeFrame_epochs ..), rfl⟩
  case claimWait => exact .session_form past (h.claimWaitWith_proceeds _)
  case claimResult => exact .session_form past fun _ => h.claimResultNow_proceeds _
  case claimCancel => exact .session_form past fun _ => h.claimCancelNow_proceeds _
  case suspend => exact .session_handled past fun i _ _ => h.suspendWith_proceeds _ i
  case resumeTop => exact .session_form past fun _ => h.resumeTopNow_proceeds _
  case preempt => exact .session_form past (h.preemptWith_proceeds _)
  case takePreempt => exact .session_form past fun _ => h.takePreemptNow_proceeds _
  case endPreempt => exact .session_form past fun _ => h.endPreemptNow_proceeds _
  case isolationList => exact .session_form past fun _ => ⟨.refl h, rfl⟩
  case inspect => exact .session_handled past h.inspectWith_proceeds
  case isolationWrite => exact .session_handled past fun _ => h.isolationWriteWith_proceeds
  case repair => exact .session_handled past h.repairWith_proceeds
  case discard =>
    exact .session_handled past fun i _ _ =>
      ⟨(h.leaveIsolation_epochs i).trans (Hub.freeFrame_epochs ..), rfl⟩
  case noticeRead => exact .session_form past fun n => h.noticeReadWith_proceeds _ n.toNat
  case classSet => exact .session_form past h.classSetWith_proceeds
  case classGet => exact .session_form past fun _ => ⟨.refl h, rfl⟩

/-- Every request stands behind its session check (R128). -/
theorem bodyOf_session {n : Instr} {r : Request} (e : requestOf n = some (p, r)) (h : Hub) :
    ∃ body, bodyOf h n = h.session r.kind p body := by
  cases n <;> simp only [requestOf, Option.some.injEq, Prod.mk.injEq, reduceCtorEq] at e <;>
    (obtain ⟨rfl, rfl⟩ := e; exact ⟨_, rfl⟩)

/-- A request that the session check refuses changes nothing. -/
theorem bodyOf_refused {n : Instr} {r : Request} (e : requestOf n = some (p, r)) {why : Result}
    (refusal : sessionRefusal r.kind (h.port p).state = some why) : bodyOf h n = (h, .bare why) := by
  obtain ⟨body, eq⟩ := bodyOf_session e h
  rw [eq, Hub.session, refusal]

/-- A JOIN is its form check and its own conditions. -/
theorem bodyOf_join_form (tag : Tag) (ws : List Word) :
    bodyOf h (.join p tag ws) = h.form (readJoin ws) (h.joinWith p) := Hub.session_passes (sessionRefusal_join _) _

theorem join_of_kind {n : Instr} {r : Request} (e : requestOf n = some (p, r)) (kind : r.kind = .join) :
    ∃ tag ws, n = .join p tag ws := by
  cases n <;> simp only [requestOf, Option.some.injEq, Prod.mk.injEq, reduceCtorEq] at e <;>
    obtain ⟨rfl, rfl⟩ := e <;> simp only [reduceCtorEq] at kind
  exact ⟨_, _, rfl⟩

/-- Past its session check no request is refused by it. -/
theorem request_result {n : Instr} {r : Request} (e : requestOf n = some (p, r))
    (past : sessionRefusal r.kind (h.port p).state = none) : (bodyOf h n).2.result.ofSession = false := by
  by_cases kind : r.kind = .join
  · obtain ⟨tag, ws, rfl⟩ := join_of_kind e kind
    rw [bodyOf_join_form]
    cases readJoin ws with
    | none => rfl
    | some t => exact h.joinWith_result p t
  · exact (request_proceeds e kind past).result

/-- A request keeps the epoch of every port, but for the JOIN of that port (R131). -/
theorem request_epoch {n : Instr} {r : Request} (e : requestOf n = some (p, r)) (h : Hub) (q : PortId) :
    ((bodyOf h n).1.port q).epoch = (h.port q).epoch ∨
      ((bodyOf h n).1.port q).epoch = (h.port q).epoch + 1 ∧ ∃ tag ws, n = .join q tag ws := by
  cases refusal : sessionRefusal r.kind (h.port p).state with
  | some why =>
    rw [bodyOf_refused e refusal]
    exact .inl rfl
  | none =>
    by_cases kind : r.kind = .join
    · obtain ⟨tag, ws, rfl⟩ := join_of_kind e kind
      rw [bodyOf_join_form]
      cases readJoin ws with
      | none => exact .inl rfl
      | some t =>
        rcases h.joinWith_epoch p t q with same | ⟨next, rfl⟩
        · exact .inl same
        · exact .inr ⟨next, tag, ws, rfl⟩
    · exact .inl ((request_proceeds e kind refusal).epochs.ports q)

end Operations

/-! ### The link and the events -/

section Events
variable (s : State) (p : PortId)

theorem State.breakPort_epochs : s.hub.SameEpochs (s.breakPort p).hub := by
  unfold State.breakPort
  dsimp only
  split
  · exact s.hub.fence_epochs p .brk
  · exact Hub.updPort_epochs (f := fun x => { x with state := .offline, notices := [] }) rfl

theorem State.receive_epochs (header : Word) (rest : List Word) :
    s.hub.SameEpochs (s.receive p header rest).hub := by
  unfold State.receive State.linkCheck
  dsimp only
  split
  · exact .refl _
  · split
    · exact .refl _
    · split
      · exact .refl _
      · split
        · exact .refl _
        · rw [State.checkedFrame_hub]
          exact s.hub.restartLease_epochs p

theorem State.window_epochs (hsi : List Word) : s.hub.SameEpochs (s.window p hsi).hub := by
  unfold State.window
  dsimp only
  split
  · rw [State.endWindow_hub]
    exact .refl _
  · split
    · exact (s.sendWindow p hsi.length).breakPort_epochs p
    · exact (s.sendWindow p hsi.length).receive_epochs p _ _

theorem State.expireLease_epochs : s.hub.SameEpochs (s.expireLease p).hub := by
  unfold State.expireLease
  split
  · exact s.hub.fence_epochs p .lease
  · exact .refl _

theorem State.expireWait_epochs : s.hub.SameEpochs (s.expireWait p).hub := by
  unfold State.expireWait
  split
  · exact s.hub.endWait_epochs p .expired
  · exact .refl _

theorem State.expireGrace_epochs : s.hub.SameEpochs (s.expireGrace p).hub := by
  unfold State.expireGrace
  split
  · exact s.hub.lapse_epochs ..
  · exact .refl _

theorem State.promoteBand_epochs (k : ClassId) (b : Prio) : s.hub.SameEpochs (s.promoteBand k b).hub :=
  .of_ports (s.hub.promote_port k b)

/-- Steps that each keep every epoch keep it one after the other. -/
theorem foldl_epochs {α : Type} {f : State → α → State} (hf : ∀ (s : State) a, s.hub.SameEpochs (f s a).hub)
    (l : List α) : s.hub.SameEpochs (l.foldl f s).hub := by
  induction l generalizing s with
  | nil => exact .refl _
  | cons a l ih => exact (hf s a).trans (ih (f s a))

theorem State.takeDue_epochs : s.hub.SameEpochs s.takeDue.hub := by
  have promotions := foldl_epochs s (fun (s : State) k => (s.promoteBand_epochs k 2).trans
    (((s.promoteBand k 2).promoteBand_epochs k 1).trans
      (((s.promoteBand k 2).promoteBand k 1).promoteBand_epochs k 0))) allClasses
  exact promotions.trans ((foldl_epochs _ State.expireWait_epochs _).trans
    ((foldl_epochs _ State.expireGrace_epochs _).trans (foldl_epochs _ State.expireLease_epochs _)))

end Events

theorem Hub.tick_epochs (h : Hub) : h.SameEpochs h.tick := .mk fun q => by
  rw [Hub.tick_port]
  rfl

/-- Every command but hub reset that admits no request keeps every epoch. -/
theorem exec_epochs {i : Instr} {s t : State} (e : exec i s = .next t) (admits : requestOf i = none)
    (hi : i ≠ .hubReset) : s.hub.SameEpochs t.hub := by
  cases i <;> simp only [requestOf, reduceCtorEq] at admits
  case requestFrame p hsi =>
    simp only [exec, execRequestFrame] at e
    split at e <;> cases e
    · exact s.window_epochs p hsi
    · exact .refl _
  case readWindow p n =>
    simp only [exec, execReadWindow] at e
    split at e <;> cases e
    · rw [State.endWindow_hub]; exact .refl _
    · exact .refl _
  case breakFrame p =>
    simp only [exec, execBreak] at e
    split at e <;> cases e
    · exact (s.sendWindow p 1).breakPort_epochs p
    · exact .refl _
  case hubReset => exact absurd rfl hi
  case hubReady => cases e; exact .refl _
  case timebaseTick =>
    simp only [exec, execTimebaseTick] at e
    split at e <;> cases e
    · exact .refl _
    · exact s.takeDue_epochs.trans (Hub.tick_epochs _)
  case leaseExpiry p => cases e; exact s.expireLease_epochs p
  case waitExpiry p => cases e; exact s.expireWait_epochs p
  case graceExpiry p => cases e; exact s.expireGrace_epochs p
  case agingPromotion k b => cases e; exact s.promoteBand_epochs k b
  case fault b pos v =>
    simp only [exec, execFault] at e
    split at e <;> cases e
    · exact .refl _
    · exact .of_ports fun _ => rfl

/-! ### The session check by the state of the port -/

section SessionCheck
variable {i : Instr} {s : State} {p : PortId} {r : Request} (hr : requestOf i = some (p, r)) (admitted : Admitted i s)
include hr admitted

/-- A request past its session check is answered, and not by a refusal of that check. -/
theorem takes_past (past : sessionRefusal r.kind (s.hub.port p).state = none) :
    ∃ reply, Takes i s reply (fun _ => True) ∧ reply.result ≠ .notJoined ∧ reply.result ≠ .fenced :=
  ⟨_, takes_body hr admitted rfl trivial, Result.ofSession_eq_false (request_result hr past)⟩

theorem refused_session {why : Result} (refusal : sessionRefusal r.kind (s.hub.port p).state = some why) :
    Refused i s why := refused_body hr admitted (bodyOf_refused hr refusal)

end SessionCheck

theorem sessionRefusal_offline (k : ReqKind) :
    sessionRefusal k .offline = if k = .join ∨ k = .hubInfo then none else some .notJoined := by
  cases k <;> rfl

theorem sessionRefusal_fenced (k : ReqKind) : sessionRefusal k .fenced =
    if k = .join ∨ k = .hubInfo ∨ k = .status ∨ k = .noticeRead then none else some .fenced := by
  cases k <;> rfl

theorem sessionRefusal_of_online {x : PortState} (on : x.isOnline = true) (k : ReqKind) :
    sessionRefusal k x = none := by
  cases x with
  | offline => cases on
  | online n => rfl
  | fenced => cases on

end Sys2Proof.Machine

/-- Settles O3: every request is a session check before a body that never refuses as that check does. -/
theorem sessionCheckGoesByPortState : Obligations.SessionCheckGoesByPortState := by
  refine fun i s p r hr admitted => ⟨fun offline => ?_, fun fenced => ?_, fun on => ?_⟩
  · have check := sessionRefusal_offline r.kind
    rw [← offline] at check
    split_ifs at check ⊢
    · exact takes_past hr admitted check
    · exact refused_session hr admitted check
  · have check := sessionRefusal_fenced r.kind
    rw [← fenced] at check
    split_ifs at check ⊢
    · exact takes_past hr admitted check
    · exact refused_session hr admitted check
  · exact takes_past hr admitted (sessionRefusal_of_online on _)

/-- Settles O7: the beginning of a session is the one thing a command does to an epoch, and only a JOIN begins one. -/
theorem epochChangesOnlyAtJoin : Obligations.EpochChangesOnlyAtJoin := by
  refine ⟨fun p => congrArg Port.epoch (Hub.reset_port p), fun i s t p e hi => ?_⟩
  cases hr : requestOf i with
  | none => exact .inl ((exec_epochs e hr hi).ports p)
  | some x =>
    obtain ⟨q, r⟩ := x
    rw [exec_request hr] at e
    rcases State.admission_hub e with same | body
    · exact .inl (by rw [same])
    · rw [body]
      exact request_epoch hr s.hub p
end

section
/-!
What a fence does with the frames of its port (R140, R143): the frames of the filling list are freed together, and the
frames held and stacked are reclaimed one after another.
-/
open Sys2Proof Sys2Proof.Machine
namespace Sys2Proof.Machine

/-! ### The frames of a filling list freed (R18, R140) -/

section FreeAll
variable {h : Hub} {i : FrameId} {c : Context} {l : List FrameId}

theorem Hub.freeAll_cons (used : h.ctx i = some c) (l : List FrameId) :
    h.freeAll (i :: l) = (h.freeFrame i c).freeAll l := by
  rw [Hub.freeAll, used]

/-- The frames of the list, each in use and listed once. -/
structure Hub.UsedOnce (h : Hub) (l : List FrameId) : Prop where
  once : l.Nodup
  used : ∀ j ∈ l, ∃ c, h.ctx j = some c

/-- The first frame freed leaves the others of its list as they were. -/
theorem Hub.UsedOnce.freeFrame (hl : h.UsedOnce (i :: l)) (c : Context) :
    (h.freeFrame i c).UsedOnce l ∧ ∀ j ∈ l, (h.freeFrame i c).frame j = h.frame j := by
  obtain ⟨fresh, once⟩ := List.nodup_cons.mp hl.once
  have same : ∀ j ∈ l, (h.freeFrame i c).frame j = h.frame j := fun j hj => by
    have other : j ≠ i := fun e => fresh (e ▸ hj)
    rw [Hub.freeFrame_frame, if_neg other]
  refine ⟨⟨once, fun j hj => ?_⟩, same⟩
  obtain ⟨d, used⟩ := hl.used j (List.mem_cons_of_mem i hj)
  exact ⟨d, (congrArg Frame.ctx (same j hj)).trans used⟩

/-- Each frame of the list is FREE in its next generation (R5, R18). -/
theorem Hub.freeAll_freed (hl : h.UsedOnce l) {j : FrameId} (hj : j ∈ l) :
    (h.freeAll l).frame j = { gen := nextGen (h.frame j).gen, ctx := none } := by
  induction l generalizing h with
  | nil => cases hj
  | cons i l ih =>
    obtain ⟨c, used⟩ := hl.used i List.mem_cons_self
    obtain ⟨rest, same⟩ := hl.freeFrame c
    rw [Hub.freeAll_cons used]
    rcases List.mem_cons.mp hj with rfl | hj
    · rw [Hub.freeAll_frame _ (List.nodup_cons.mp hl.once).1, Hub.freeFrame_frame, if_pos rfl]
    · rw [ih rest hj, same j hj]

/-- The blocks of the frames rejoin the free set, and keep their marks (R18). -/
theorem Hub.freeAll_block (hl : h.UsedOnce l) (b : BlockId) : (h.freeAll l).block b =
    { h.block b with free := (h.block b).free || l.any (fun i => (h.blocksOf i).contains b) } := by
  induction l generalizing h with
  | nil => simp [Hub.freeAll]
  | cons i l ih =>
    obtain ⟨c, used⟩ := hl.used i List.mem_cons_self
    obtain ⟨rest, same⟩ := hl.freeFrame c
    have blocks : ∀ j ∈ l, (h.freeFrame i c).blocksOf j = h.blocksOf j := fun j hj => by
      simp only [Hub.blocksOf, Hub.ctx, same j hj]
    have others : l.any (fun j => ((h.freeFrame i c).blocksOf j).contains b) =
        l.any (fun j => (h.blocksOf j).contains b) := by
      rw [Bool.eq_iff_iff, List.any_eq_true, List.any_eq_true]
      exact exists_congr fun j => and_congr_right fun hj => by rw [blocks j hj]
    have first : h.blocksOf i = c.blocks := by rw [Hub.blocksOf, used]
    rw [Hub.freeAll_cons used, ih rest, others, List.any_cons, first, Hub.freeFrame_block]
    by_cases listed : b ∈ c.blocks
    · simp [listed]
    · simp [listed]

/-- The populations fall by the frames of each class, and no queue changes (R18). -/
theorem Hub.freeAll_cls (hl : h.UsedOnce l) (k : ClassId) : (h.freeAll l).cls k =
    { h.cls k with population := (h.cls k).population - h.countOf k l } := by
  induction l generalizing h with
  | nil => rfl
  | cons i l ih =>
    obtain ⟨c, used⟩ := hl.used i List.mem_cons_self
    obtain ⟨rest, same⟩ := hl.freeFrame c
    have others : (h.freeFrame i c).countOf k l = h.countOf k l :=
      List.countP_congr fun j hj => by simp only [Hub.classOf, Hub.ctx, same j hj]
    have first : h.classOf i = c.control.cls := by rw [Hub.classOf, used]
    have count : h.countOf k (i :: l) = h.countOf k l + if c.control.cls = k then 1 else 0 := by
      simp only [Hub.countOf, List.countP_cons, first, beq_iff_eq]
    rw [Hub.freeAll_cons used, ih rest, others, count, Hub.freeFrame_cls]
    by_cases own : c.control.cls = k
    · rw [if_pos own.symm, if_pos own, Nat.add_comm, Nat.sub_add_eq]
    · rw [if_neg (Ne.symm own), if_neg own, Nat.add_zero]

end FreeAll

/-! ### What the reclaim of frames changes (R143) -/

/-- What the reclaim of the frames `out` changes, outside the port they were taken from. -/
structure Hub.Reclaims (h g : Hub) (p : PortId) (out : List FrameId) : Prop where
  moved    : ∀ j ∈ out, h.MovedOn g j .reclaimed (some p)
  others   : ∀ q, q ≠ p → (h.port q).OnlyGains (g.port q) h out
  classes  : ∀ k, ∃ q, g.cls k = { h.cls k with queue := q } ∧ (h.cls k).queue.Sublist q
  waitList : g.waitList.Sublist h.waitList
  same     : h.SameBeyond g
    { frames := (· ∈ out), ports := fun _ => True, classes := fun _ => True, waitList := True }

section Reclaims
variable {h g k : Hub} {p : PortId} {i : FrameId} {c : Context} {l out out' : List FrameId}

/-- Notices told to a port reclaim no frame. -/
theorem Hub.Tells.reclaims {q : PortId} {ns : List Notice} (tells : h.Tells g q ns) : h.Reclaims g p [] where
  moved j hj := absurd hj List.not_mem_nil
  others r _ := by
    by_cases asked : r = q
    · rw [asked, tells.1]
      exact Port.told_onlyGains ..
    · rw [tells.2.ports r asked]
      exact .refl _ _ _
  classes k := ⟨_, tells.2.classes k id, .refl _⟩
  waitList := by rw [tells.2.waitList id]
  same := tells.2.mono {}

theorem Hub.Reclaims.nil (h : Hub) (p : PortId) : h.Reclaims h p [] := (Hub.tells_nil h p).reclaims

/-- Frames reclaimed after others, and none of them. -/
theorem Hub.Reclaims.trans (a : h.Reclaims g p out) (b : g.Reclaims k p out') (apart : ∀ j ∈ out', j ∉ out) :
    h.Reclaims k p (out ++ out') where
  moved j hj := by
    have claims : ∀ e q, g.claimTakes e (some p) q = true → h.claimTakes e (some p) q = true := fun e q takes =>
      Hub.claimTakes_of_onlyGains (a.others q (Hub.ne_of_claimTakes takes)) takes
    rcases List.mem_append.mp hj with hj | hj
    · exact (a.moved j hj).of_frame rfl (b.same.frames j fun hj' => apart j hj' hj) fun _ _ => id
    · exact (b.moved j hj).of_frame (a.same.frames j (apart j hj)).symm rfl claims
  others q hq := (a.others q hq).trans (b.others q hq) fun j hj => by
    rw [Hub.handle, a.same.frames j (apart j hj), Hub.handle]
  classes l := by
    obtain ⟨q, first, grows⟩ := a.classes l
    obtain ⟨q', second, grows'⟩ := b.classes l
    rw [first] at second grows'
    exact ⟨q', second, grows.trans grows'⟩
  waitList := b.waitList.trans a.waitList
  same := by
    refine (a.same.mono ?first).trans (b.same.mono ?second)
    case first => exact { frames := fun j hj => List.mem_append_left _ hj }
    case second => exact { frames := fun j hj => List.mem_append_right _ hj }

/-- One frame that goes to a queue or to the claim of a port other than `p`. -/
theorem Hub.Reclaims.ofMoved {place : Place} (used : h.ctx i = some c)
    (frames : ∀ j, g.frame j = if j = i then
      { h.frame i with ctx := some { c with cause := some .reclaimed, place := place } } else h.frame j)
    (went : place = .queued c.control.base 0 ∨ ∃ q, place = .held q false ∧ h.claimTakes c (some p) q = true)
    (others : ∀ q, q ≠ p → (h.port q).OnlyGains (g.port q) h [i])
    (classes : ∀ k, ∃ q, g.cls k = { h.cls k with queue := q } ∧ (h.cls k).queue.Sublist q)
    (waitList : g.waitList.Sublist h.waitList) (blocks : ∀ b, g.block b = h.block b) (memory : g.memory = h.memory)
    (isolation : g.isolation = h.isolation) : h.Reclaims g p [i] where
  moved j hj d hd := by
    obtain rfl := List.mem_singleton.mp hj
    obtain rfl : c = d := Option.some.inj (used.symm.trans hd)
    exact ⟨place, (frames j).trans (if_pos rfl), went⟩
  others := others
  classes := classes
  waitList := waitList
  same :=
    { frames := fun j hj => (frames j).trans (if_neg (by simpa using hj))
      ports := fun _ hq => absurd trivial hq
      classes := fun _ hk => absurd trivial hk
      blocks := fun b _ => blocks b
      words := fun a _ => by rw [memory]
      waitList := fun hw => absurd trivial hw
      isolation := fun _ => isolation }

/-- A frame given up with cause RECLAIMED goes to the oldest claim that takes it, or to its queue (R25, R87). -/
theorem Hub.makeAvailable_reclaims (used : h.ctx i = some c) :
    h.Reclaims (h.makeAvailable i c .reclaimed (some p)).1 p [i] := by
  unfold Hub.makeAvailable
  cases found : h.offer c (some p) with
  | none =>
    obtain ⟨blocks, memory, waitList, isolation⟩ := h.enqueue_rest i c .reclaimed
    refine .ofMoved used (h.enqueue_frame i c .reclaimed) (.inl rfl) (fun q _ => ?_) (h.enqueue_cls i c .reclaimed)
      (by rw [waitList]) blocks memory isolation
    obtain ⟨ns, told⟩ := h.enqueue_port i c .reclaimed q
    rw [told]
    exact Port.told_onlyGains ..
  | some q =>
    obtain ⟨takes, -⟩ := Hub.offer_some found
    obtain ⟨frames, ports, classes, blocks, memory, waitList, isolation⟩ :=
      h.grant_parts i { c with cause := some .reclaimed } q
    refine .ofMoved used frames (.inr ⟨q, rfl, takes⟩) (fun r _ => ?_) (fun k => ⟨_, classes k, .refl _⟩)
      (waitList ▸ List.erase_sublist) blocks memory isolation
    rw [ports]
    split
    · next own =>
      subst own
      exact ⟨⟨rfl, rfl, rfl, rfl, rfl, rfl⟩, ⟨[], (List.append_nil _).symm⟩,
        .inr ⟨i, List.mem_singleton_self i, rfl, rfl, Hub.isWaiting_of_claimTakes takes⟩⟩
    · exact .refl _ _ _

/-- One frame reclaimed: it is given up, and then its origin is told (R143). -/
theorem Hub.reclaim_reclaims (used : h.ctx i = some c) : h.Reclaims (h.reclaim p i) p [i] := by
  have given := Hub.makeAvailable_reclaims (p := p) used
  unfold Hub.reclaim
  rw [used]
  dsimp only
  split
  · exact given
  · exact given.trans (Hub.post_tells ..).reclaims fun _ hj => absurd hj List.not_mem_nil

/-- The first frame reclaimed leaves the others of its row as they were. -/
theorem Hub.UsedOnce.reclaim (hl : h.UsedOnce (i :: l)) (used : h.ctx i = some c) (p : PortId) :
    (h.reclaim p i).UsedOnce l := by
  obtain ⟨fresh, once⟩ := List.nodup_cons.mp hl.once
  refine ⟨once, fun j hj => ?_⟩
  have same : (h.reclaim p i).frame j = h.frame j :=
    (Hub.reclaim_reclaims used).same.frames j fun e => fresh (List.mem_singleton.mp e ▸ hj)
  obtain ⟨d, hd⟩ := hl.used j (List.mem_cons_of_mem i hj)
  exact ⟨d, (congrArg Frame.ctx same).trans hd⟩

/-- A row of frames in use, each once, is reclaimed one frame after another. -/
theorem Hub.foldl_reclaim_reclaims (hl : h.UsedOnce l) :
    h.Reclaims (l.foldl (fun g i => g.reclaim p i) h) p l := by
  induction l generalizing h with
  | nil => exact .nil h p
  | cons i l ih =>
    obtain ⟨c, used⟩ := hl.used i List.mem_cons_self
    have fresh := (List.nodup_cons.mp hl.once).1
    exact (Hub.reclaim_reclaims used).trans (ih (hl.reclaim used p)) fun j hj e =>
      fresh (List.mem_singleton.mp e ▸ hj)

/-- A notice told to a port leaves each queue in its bands. -/
theorem Hub.QueuesBanded.tells (hb : h.QueuesBanded) {q : PortId} {ns : List Notice} (tells : h.Tells g q ns) :
    g.QueuesBanded := fun k => by
  rw [tells.2.classes k id]
  refine (hb k).imp fun {a b} le => ?_
  rwa [Hub.effOf_of_frame (tells.2.frames a id), Hub.effOf_of_frame (tells.2.frames b id)]

/-- Where the queues stand in bands, the row is reclaimed in the turns of R143. -/
theorem Hub.foldl_reclaim_inTurn (hl : h.UsedOnce l) (hf : h.FiledBut l) (hb : h.QueuesBanded) :
    Hub.ReclaimsInTurn p l h (l.foldl (fun g i => g.reclaim p i) h) := by
  induction l generalizing h with
  | nil => rfl
  | cons i l ih =>
    obtain ⟨c, used⟩ := hl.used i List.mem_cons_self
    have fresh := (List.nodup_cons.mp hl.once).1
    obtain ⟨o, m, given, tells⟩ := Hub.reclaim_turn (p := p) hb used (hf.leaveOwner_eq c)
    have banded := (hb.givesUp (fun k => hf.not_mem_shelf (.queue k)) given).tells tells
    exact ⟨c, o, m, _, used, given, tells, ih (hl.reclaim used p) (hf.reclaim fresh p) banded⟩

end Reclaims

end Sys2Proof.Machine
end

section
/-!
The fence of a port put together (R139 to R144): its first four steps, the reclaim of the frames held and stacked, and
the report; and the two commands that fence a port, the expiry of its lease (R132) and BREAK (R146).
-/
open Sys2Proof Sys2Proof.Machine
namespace Sys2Proof.Machine

section Fence
variable {h : Hub} {p : PortId}

/-! ### The frames out of their collections -/

/-- A frame that stands in a collection is in use. -/
theorem Hub.ctx_of_shelfOf {j : FrameId} {x : Shelf} (stood : h.shelfOf j = some x) : ∃ c, h.ctx j = some c := by
  obtain ⟨c, used, -⟩ := Option.map_eq_some_iff.mp stood
  exact ⟨c, used⟩

/-- The frames of a filling list are in use, each listed once (R39). -/
theorem Hub.FiledBut.filling_usedOnce (hf : h.FiledBut []) (p : PortId) : h.UsedOnce (h.port p).filling where
  once := hf.nodup (.filling p)
  used _ hj := Hub.ctx_of_shelfOf (hf.mem_nil (x := .filling p).mp hj)

/-- The frames to reclaim are those held and those stacked. -/
theorem Hub.FiledBut.mem_reclaimOrder (hf : h.FiledBut []) {j : FrameId} :
    j ∈ (h.port p).reclaimOrder ↔ h.shelfOf j = some (.hold p) ∨ h.shelfOf j = some (.stack p) := by
  rw [Port.reclaimOrder, List.mem_append, List.mem_reverse]
  exact or_congr (hf.mem_nil (x := .hold p)) (hf.mem_nil (x := .stack p))

theorem Hub.FiledBut.reclaimOrder_usedOnce (hf : h.FiledBut []) (p : PortId) : h.UsedOnce (h.port p).reclaimOrder where
  once := hf.reclaimOrder_nodup p
  used _ hj := (hf.mem_reclaimOrder.mp hj).elim Hub.ctx_of_shelfOf Hub.ctx_of_shelfOf

/-- A frame that is filled is neither held nor stacked. -/
theorem Hub.FiledBut.filling_apart (hf : h.FiledBut []) {j : FrameId} (filled : j ∈ (h.port p).filling) :
    j ∉ (h.port p).reclaimOrder := fun kept => by
  have stood : h.shelfOf j = some (.filling p) := hf.mem_nil.mp filled
  rcases hf.mem_reclaimOrder.mp kept with other | other
  · cases stood.symm.trans other
  · cases stood.symm.trans other

/-- The frames to reclaim are out once their lists are emptied. -/
theorem Hub.FiledBut.takeReclaims (hf : h.FiledBut []) (p : PortId) :
    (h.updPort p (fun x => { x with hold := [], stack := [] })).FiledBut (h.port p).reclaimOrder := by
  have shelves : ∀ y, (h.updPort p (fun x => { x with hold := [], stack := [] })).shelf y =
      if y = .hold p ∨ y = .stack p then [] else h.shelf y :=
    Hub.updPort_shelf (if_pos (.inl rfl)) rfl (if_pos (.inr rfl)) fun _ hy _ hy' => if_neg (not_or.mpr ⟨hy, hy'⟩)
  refine hf.takeAll (fun y => ?_) (fun y j => ?_) fun _ => rfl
  · rw [shelves]
    split
    · exact List.nil_sublist _
    · exact .refl _
  · rw [shelves, hf.mem_reclaimOrder]
    split
    · next emptied => rcases emptied with rfl | rfl <;> simp +contextual [hf.mem_nil]
    · next kept =>
      refine (and_iff_left_of_imp fun listed out => kept ?_).symm
      simpa [hf.mem_nil.mp listed] using out

/-- The frames that the fifth step reclaims are the only ones out of their collections before it. -/
theorem Hub.FiledBut.fenceStart (hf : h.FiledBut []) (p : PortId) :
    (h.fenceStart p).FiledBut (h.port p).reclaimOrder := by
  have fenced := hf.updPort (p := p) (f := fun x => { x with state := .fenced }) fun _ => ⟨rfl, rfl, rfl⟩
  have freed := fenced.freeFilling p
  rw [show ((h.updPort p fun x => { x with state := .fenced }).port p).filling = (h.port p).filling by simp] at freed
  have taken := ((freed.endWait p .none).fenceLatch p).takeReclaims p
  have order : (((h.fenceFrees p).fenceLatch p).port p).reclaimOrder = (h.port p).reclaimOrder := by
    rw [Hub.fenceFrees_fenceLatch_port]
    rfl
  rw [← order]
  exact taken

/-! ### The hub before the fifth step -/

/-- The hub while only the state of the port has changed (R139). -/
def Hub.fenceState (h : Hub) (p : PortId) : Hub := h.updPort p (fun x => { x with state := .fenced })

/-- Of the first four steps only the freeing of the filling list changes frames, blocks and classes. -/
theorem Hub.fenceStart_sameBeyond (h : Hub) (p : PortId) :
    ((h.fenceState p).freeAll (h.port p).filling).SameBeyond (h.fenceStart p)
      { ports := fun _ => True, waitList := True } := by
  have emptied := (Hub.updPort_sameBeyond ((h.fenceState p).freeAll (h.port p).filling) p
    (fun x => { x with filling := [] })).mono (z := { ports := fun _ => True, waitList := True }) {}
  have ended := emptied.endWait (p := p) (fun _ => trivial) trivial .none
  have told := ended.trans ((Hub.fenceLatch_sameBeyond _ p).mono {})
  exact told.trans ((Hub.updPort_sameBeyond _ p _).mono {})

theorem Hub.UsedOnce.of_frames {g : Hub} {l : List FrameId} (hl : h.UsedOnce l)
    (frames : ∀ j ∈ l, g.frame j = h.frame j) : g.UsedOnce l where
  once := hl.once
  used j hj := by
    obtain ⟨c, used⟩ := hl.used j hj
    exact ⟨c, (congrArg Frame.ctx (frames j hj)).trans used⟩

/-- What the freeing of the filling list leaves in the store (R18, R140). -/
structure Hub.FenceFreed (h g : Hub) (p : PortId) : Prop where
  frames    : ∀ j ∈ (h.port p).filling, g.frame j = { gen := nextGen (h.frame j).gen, ctx := none }
  blocks    : ∀ b, g.block b =
    { h.block b with free := (h.block b).free || (h.port p).filling.any (fun i => (h.blocksOf i).contains b) }
  classes   : ∀ k, g.cls k = { h.cls k with population := (h.cls k).population - h.countOf k (h.port p).filling }
  words     : ∀ a, g.memory.read a = h.memory.read a
  isolation : g.isolation = h.isolation

theorem Hub.FiledBut.fenceStart_freed (hf : h.FiledBut []) (p : PortId) : h.FenceFreed (h.fenceStart p) p := by
  have listed : (h.fenceState p).UsedOnce (h.port p).filling :=
    (hf.filling_usedOnce p).of_frames fun _ _ => rfl
  have start := h.fenceStart_sameBeyond p
  obtain ⟨-, -, memory, -, isolation⟩ := (h.fenceState p).freeAll_rest (h.port p).filling
  exact
    { frames := fun j hj => (start.frames j id).trans (Hub.freeAll_freed listed hj)
      blocks := fun b => (start.blocks b id).trans (Hub.freeAll_block listed b)
      classes := fun k => (start.classes k id).trans (Hub.freeAll_cls listed k)
      words := fun a => (start.words a id).trans (congrArg (fun m => m.read a) memory)
      isolation := (start.isolation id).trans isolation }

/-- Another port is told of its notices at most. -/
theorem Hub.fenceStart_onlyGains (h : Hub) {q : PortId} (other : q ≠ p) :
    (h.port q).OnlyGains ((h.fenceStart p).port q) h [] := by
  rw [(h.fenceStart_starts p).others q other]
  exact Port.told_onlyGains ..

/-- No frame that a fence frees stands in a queue, and so each queue stays in its bands. -/
theorem Hub.QueuesBanded.fenceStart (hb : h.QueuesBanded) (hf : h.FiledBut []) (p : PortId) :
    (h.fenceStart p).QueuesBanded := fun k => by
  have starts := h.fenceStart_starts p
  have eff : ∀ j ∈ (h.cls k).queue, (h.fenceStart p).effOf j = h.effOf j := fun j queued => by
    refine Hub.effOf_of_frame (starts.frames j fun filled => ?_)
    have stood : h.shelfOf j = some (.queue k) := hf.mem_nil.mp queued
    have other : h.shelfOf j = some (.filling p) := hf.mem_nil.mp filled
    cases stood.symm.trans other
  rw [starts.queues]
  refine (hb k).imp_of_mem fun {a b} ha hb le => ?_
  rwa [eff a ha, eff b hb]

/-! ### The fence -/

/-- The hub after the fifth step of a fence. -/
def Hub.fenceEnd (h : Hub) (p : PortId) : Hub :=
  (h.port p).reclaimOrder.foldl (fun g i => g.reclaim p i) (h.fenceStart p)

theorem Hub.fence_fenceEnd (h : Hub) (p : PortId) (why : FenceReason) :
    (h.fenceEnd p).SameBeyond (h.fence p why) { ports := (· = p) } := by
  rw [Hub.fence_eq]
  exact Hub.updPort_sameBeyond ..

theorem Port.reclaimOrder_length (x : Port) : x.reclaimOrder.length = x.hold.length + x.stack.length := by
  rw [Port.reclaimOrder, List.length_append, List.length_reverse, List.length_map]

/-- A fence does what R139 to R144 say. -/
theorem Hub.fence_fences (filed : h.Filed) (waits : h.WaitListTrue) (why : FenceReason) :
    h.Fences (h.fence p why) p why := by
  have hf := h.filed_iff.mp filed
  have freed := hf.fenceStart_freed p
  have starts := h.fenceStart_starts p
  have last := h.fence_fenceEnd p why
  have kept : ∀ j ∈ (h.port p).reclaimOrder, (h.fenceStart p).frame j = h.frame j := fun j hj =>
    starts.frames j fun filled => hf.filling_apart filled hj
  have row := (hf.reclaimOrder_usedOnce p).of_frames kept
  have reclaims : (h.fenceStart p).Reclaims (h.fenceEnd p) p (h.port p).reclaimOrder :=
    Hub.foldl_reclaim_reclaims row
  refine
    { port := ?port
      filling := fun j hj => ?filling
      moved := fun j hj => ?moved
      frames := fun j filled out => ?frames
      blocks := fun b => ?blocks
      words := fun a => ?words
      isolation := ?isolation
      classes := fun k => ?classes
      waitList := ?waitList
      others := fun q other => ?others
      turns := fun banded => ?turns }
  case port =>
    rw [Hub.fence_port_self, Port.fenceReport, Port.reclaimOrder_length]
  case filling =>
    rw [last.frames j id, reclaims.same.frames j (hf.filling_apart hj), freed.frames j hj]
    rfl
  case moved =>
    refine (reclaims.moved j hj).of_frame (kept j hj).symm (last.frames j id) fun d q takes => ?_
    exact Hub.claimTakes_of_onlyGains (h.fenceStart_onlyGains (Hub.ne_of_claimTakes takes)) takes
  case frames => rw [last.frames j id, reclaims.same.frames j out, starts.frames j filled]
  case blocks => rw [last.blocks b id, reclaims.same.blocks b id, freed.blocks]
  case words => rw [last.words a id, reclaims.same.words a id, freed.words]
  case isolation => rw [last.isolation id, reclaims.same.isolation id, freed.isolation]
  case classes =>
    obtain ⟨q, cls, grows⟩ := reclaims.classes k
    rw [starts.queues] at grows
    refine ⟨q, ?_, grows⟩
    rw [last.classes k id, cls, freed.classes]
  case waitList =>
    rw [last.waitList id]
    have fewer : (h.fenceEnd p).waitList.Sublist (h.waitList.erase p) := starts.waitList ▸ reclaims.waitList
    refine ⟨fewer.trans List.erase_sublist, fun listed => ?_⟩
    exact (waits.1.mem_erase_iff.mp (fewer.subset listed)).1 rfl
  case others =>
    rw [last.ports q other]
    refine (h.fenceStart_onlyGains other).trans (reclaims.others q other) fun j hj => ?_
    rw [Hub.handle, kept j hj, Hub.handle]
  case turns =>
    exact ⟨h.fenceStart p, h.fenceEnd p, starts,
      Hub.foldl_reclaim_inTurn row (hf.fenceStart p) (banded.fenceStart hf p), last⟩

end Fence

/-! ### The commands that fence (R132, R146) -/

/-- A Host Port whose replay cache is emptied beside a fence. -/
theorem State.fencePort_link (s : State) (p : PortId) (why : FenceReason) (q : PortId) :
    (s.fencePort p why).link q = if q = p then { s.link p with cache := none } else s.link q := by
  rw [State.fencePort, State.with_hub_link, State.dropCache, State.updLink_link]

theorem State.fencePort_rest (s : State) (p : PortId) (why : FenceReason) : (s.fencePort p why).arbiter = s.arbiter ∧
    (s.fencePort p why).readiness = s.readiness ∧ (s.fencePort p why).pending = s.pending := by
  simp only [State.fencePort, State.dropCache, State.updLink_arbiter, State.updLink_readiness,
    State.updLink_pending, and_self]

theorem Port.leaseDue_iff (x : Port) : x.leaseDue = true ↔ x.state = .online 0 := beq_iff_eq

theorem exec_leaseExpiry_due {s : State} {p : PortId} (due : (s.hub.port p).state = .online 0) :
    exec (.leaseExpiry p) s = .next (s.fencePort p .lease) :=
  congrArg Host.Outcome.next (if_pos ((Port.leaseDue_iff _).mpr due))

theorem exec_leaseExpiry_early {s : State} {p : PortId} (early : (s.hub.port p).state ≠ .online 0) :
    exec (.leaseExpiry p) s = .next s :=
  congrArg Host.Outcome.next (if_neg (mt (Port.leaseDue_iff _).mp early))

/-- A BREAK of a ready hub is a window of one word, and then the break of its port. -/
theorem exec_breakFrame_ready {s : State} (ready : s.isReady = true) (p : PortId) :
    exec (.breakFrame p) s = .next ((s.sendWindow p 1).breakPort p) := if_pos ready

/-- What a BREAK leaves of the Host Ports: that of its port has no request, response or cached response, and the
others are as before. -/
theorem State.breakPort_link (s : State) (p q : PortId) : (s.breakPort p).link q =
    if q = p then { s.link p with slot := none, response := none, overrun := false, cache := none } else s.link q := by
  unfold State.breakPort State.fencePort State.takeOffline State.dropCache State.dropOutstanding
  dsimp only
  split
  · simp only [State.with_hub_link, State.updLink_link, if_true]
    split <;> rfl
  · simp only [State.with_hub_link, State.updLink_link, if_true]
    split <;> rfl

theorem State.breakPort_rest (s : State) (p : PortId) : (s.breakPort p).arbiter = s.arbiter ∧
    (s.breakPort p).readiness = s.readiness ∧ (s.breakPort p).pending = s.pending := by
  unfold State.breakPort
  dsimp only
  split
  · simp only [State.fencePort, State.dropCache, State.dropOutstanding, State.updLink_arbiter,
      State.updLink_readiness, State.updLink_pending, and_self]
  · simp only [State.takeOffline, State.dropCache, State.dropOutstanding, State.updLink_arbiter,
      State.updLink_readiness, State.updLink_pending, and_self]

theorem State.breakPort_hub (s : State) (p : PortId) : (s.breakPort p).hub =
    if s.hub.online p then s.hub.fence p .brk
    else s.hub.updPort p (fun x => { x with state := .offline, notices := [] }) := by
  unfold State.breakPort
  dsimp only
  split
  · next on => exact (if_pos on).symm
  · next off => exact (if_neg off).symm

end Sys2Proof.Machine

/-- Settles O43: a lease that has run out is the fence of its port beside the emptying of its replay cache. -/
theorem leaseExpiryFencesThePort : Obligations.LeaseExpiryFencesThePort := by
  refine fun s p => ⟨fun due filed waits => ?_, exec_leaseExpiry_early⟩
  refine ⟨_, exec_leaseExpiry_due due, Hub.fence_fences filed waits .lease, ?_, fun q other => ?_,
    s.fencePort_rest p .lease⟩
  · rw [State.fencePort_link, if_pos rfl]
  · rw [State.fencePort_link, if_neg other]

/-- Settles O39: after its window a BREAK empties the Host Port, and fences its port where that is ONLINE. -/
theorem breakAbandonsTheSession : Obligations.BreakAbandonsTheSession := by
  intro s p ready filed waits
  have link := (s.sendWindow p 1).breakPort_link p
  have hub : ((s.sendWindow p 1).breakPort p).hub = if s.hub.online p then s.hub.fence p .brk
      else s.hub.updPort p (fun x => { x with state := .offline, notices := [] }) :=
    (s.sendWindow p 1).breakPort_hub p
  obtain ⟨arbiter, readiness, pending⟩ := (s.sendWindow p 1).breakPort_rest p
  refine ⟨_, exec_breakFrame_ready ready p, ?_, ?_, ?_, ?_, fun q other => ?_, arbiter, readiness, pending,
    fun on => ?_, fun off => ?_⟩
  · rw [link, if_pos rfl]
  · rw [link, if_pos rfl]
  · rw [link, if_pos rfl]
  · rw [link, if_pos rfl]
  · rw [link, if_neg other, State.sendWindow, State.updLink_link, if_neg other]
  · rw [hub, if_pos on]
    exact Hub.fence_fences filed waits .brk
  · rw [hub, if_neg (Bool.eq_false_iff.mp off)]
    exact ⟨(Hub.updPort_port ..).trans (if_pos rfl), Hub.updPort_sameBeyond ..⟩
end

section
/-!
Notices and the attention line (chapter 9): the fill of a notice queue and its posting (R150, R151), NOTICE_READ (R154,
R155), and the three sources of the line (R157).
-/
open Sys2Proof Sys2Proof.Machine
namespace Sys2Proof.Machine

/-! ### Posting by the fill of the queue (R151) -/

section Append
variable {q : List Notice}

theorem appendNotice_of_room (room : q.length ≤ 14) (n : Notice) : appendNotice q n = q ++ [n] :=
  if_pos (Nat.lt_succ_of_le (Nat.succ_le_succ room))

theorem appendNotice_of_last (last : q.length = 15) (n : Notice) : appendNotice q n = q ++ [.overflow] := by
  rw [appendNotice, last]
  rfl

theorem appendNotice_of_full (full : q.length = 16) (n : Notice) : appendNotice q n = q := by
  rw [appendNotice, full]
  rfl

end Append

theorem Port.told_of_online {x : Port} (on : x.state.isOnline = true) (n : Notice) :
    x.told [n] = { x with notices := appendNotice x.notices n } := if_pos on

theorem Port.told_of_not_online {x : Port} (off : x.state.isOnline = false) (ns : List Notice) : x.told ns = x :=
  if_neg (Bool.eq_false_iff.mp off)

/-! ### NOTICE_READ (R154, R155) -/

/-- NOTICE_READ passes the session check in every state but OFFLINE (R128). -/
theorem sessionRefusal_noticeRead {x : PortState} (joined : x ≠ .offline) : sessionRefusal .noticeRead x = none := by
  cases x with
  | offline => exact absurd rfl joined
  | online n => rfl
  | fenced => rfl

theorem bodyOf_noticeRead {s : State} {p : PortId} (joined : (s.hub.port p).state ≠ .offline) (tag : Tag)
    (n : BitVec 3) : bodyOf s.hub (.noticeRead p tag [threeWord n]) = s.hub.noticeReadWith p n.toNat := by
  show s.hub.session .noticeRead p (s.hub.form (readThree [threeWord n]) fun n => s.hub.noticeReadWith p n.toNat) = _
  rw [Hub.session_passes (sessionRefusal_noticeRead joined), readThree_threeWord]
  rfl

/-- The count of a NOTICE_READ is out of its range 1..4 (R154). -/
theorem noticeCount_bad_iff (n : BitVec 3) : n.toNat < 1 ∨ 4 < n.toNat ↔ n = 0 ∨ 4 < n.toNat := by
  rw [Nat.lt_one_iff, ← BitVec.toNat_inj]
  rfl

theorem Hub.noticeReadWith_badValue {n : Nat} (bad : n < 1 ∨ 4 < n) (h : Hub) (p : PortId) :
    h.noticeReadWith p n = (h, .bare .badValue) := if_pos bad

/-- The records that are read leave the queue, and the answer counts them and those left before it lists them. -/
theorem Hub.noticeReadWith_taken {n : Nat} (good : ¬ (n < 1 ∨ 4 < n)) (h : Hub) (p : PortId) :
    h.noticeReadWith p n =
      (h.updPort p (fun x => { x with notices := (h.port p).notices.drop n }),
        .okWith (valueWord ((h.port p).notices.take n).length :: valueWord ((h.port p).notices.drop n).length ::
          ((h.port p).notices.take n).flatMap Notice.words)) := by
  rw [Hub.noticeReadWith, if_neg good]

/-! ### The sources of the attention line (R157) -/

theorem ClaimRec.isUnread_iff (r : ClaimRec) : r.isUnread = true ↔ (∃ hd, r = .granted hd) ∨ r = .expired := by
  cases r with
  | granted hd => exact ⟨fun _ => .inl ⟨hd, rfl⟩, fun _ => rfl⟩
  | expired => exact ⟨fun _ => .inr rfl, fun _ => rfl⟩
  | none => exact ⟨nofun, fun e => e.elim nofun nofun⟩
  | waiting mask remaining => exact ⟨nofun, fun e => e.elim nofun nofun⟩

theorem Latch.isPending_iff (l : Latch) : l.isPending = true ↔ ∃ n g, l = .pending n g := by
  cases l with
  | pending n g => exact ⟨fun _ => ⟨n, g, rfl⟩, fun _ => rfl⟩
  | clear => exact ⟨nofun, nofun⟩
  | serving v => exact ⟨nofun, nofun⟩
  | servingPending v n => exact ⟨nofun, nofun⟩

theorem Port.calls_iff (x : Port) : x.calls = true ↔
    x.notices ≠ [] ∨ ((∃ hd, x.claim = .granted hd) ∨ x.claim = .expired) ∨ ∃ n g, x.latch = .pending n g := by
  rw [Port.calls, Bool.or_eq_true, Bool.or_eq_true, ClaimRec.isUnread_iff, Latch.isPending_iff, Bool.not_eq_true',
    List.isEmpty_eq_false_iff, or_assoc]

end Sys2Proof.Machine

/-- Settles O31: a NOTICE_READ takes the head of the queue, as far as its count goes, and a notice posted to an ONLINE
port is appended by the fill of the queue. -/
theorem noticesArePostedAndRead : Obligations.NoticesArePostedAndRead := by
  refine ⟨?_, ?_⟩
  · intro s p tag n joined i x admitted
    have body := bodyOf_noticeRead joined tag n
    split_ifs with bad
    · rw [← noticeCount_bad_iff] at bad
      exact refused_body rfl admitted (body.trans (Hub.noticeReadWith_badValue bad _ p))
    · rw [← noticeCount_bad_iff] at bad
      refine ⟨x.notices.take n.toNat, x.notices.drop n.toNat, (List.take_append_drop ..).symm, List.length_take, ?_⟩
      refine takes_body_eq rfl admitted (body.trans (Hub.noticeReadWith_taken bad _ p)) ⟨?_, Hub.updPort_sameBeyond ..⟩
      exact (Hub.updPort_port ..).trans (if_pos rfl)
  · intro h p n q g
    obtain ⟨told, same⟩ := h.post_tells p n
    refine ⟨same, fun off => told.trans (Port.told_of_not_online off _), fun on => ?_⟩
    have appended : g.port p = { h.port p with notices := appendNotice q n } := told.trans (Port.told_of_online on n)
    refine ⟨fun room => ?_, fun last => ?_, fun full => ?_⟩
    · rw [appended, appendNotice_of_room room]
    · rw [appended, appendNotice_of_last last]
    · rw [appended, appendNotice_of_full full]

/-- Settles O47: the line of a ready hub is asserted where one of the three sources calls. -/
theorem attentionLineFollowsItsThreeSources : Obligations.AttentionLineFollowsItsThreeSources := fun s p => by
  rw [State.attn, Bool.and_eq_true, Port.calls_iff]
end

section
/-!
The requests that look into the Isolation List and mend what stands there: INSPECT (R163, R164) and REPAIR (R166 to
R168).
-/
open Sys2Proof Sys2Proof.Machine
namespace Sys2Proof.Machine

section Isolated
variable {h : Hub} {j : FrameId} {c : Context} {r : IsoReason}

/-! ### A frame in isolation (R7, R20, R67, R160) -/

/-- An isolated frame has the effective priority of its base (R7), and its header record says so (R67). -/
theorem Hub.record_isolated (used : h.ctx j = some c) (place : c.place = .isolated r) :
    h.record j = headerRecord (h.handle j) c c.control.base := by
  have eff : c.eff = c.control.base := by rw [Context.eff, place]
  simp only [Hub.record, Hub.recordOf, Hub.effOf, used, eff]

/-- A frame that stays in the Isolation List with the reason found is all that changes. -/
theorem Hub.setReason_stays (h : Hub) (j : FrameId) (d : Context) (r : IsoReason) :
    (h.setReason j d r).frame j = { h.frame j with ctx := some { d with place := .isolated r } } ∧
      h.SameBeyond (h.setReason j d r) { frames := (· = j) } :=
  ⟨(Hub.putCtx_frame ..).trans (if_pos rfl), h.putCtx_sameBeyond ..⟩

theorem Hub.setReason_record (h : Hub) (j : FrameId) (d : Context) (r : IsoReason) :
    (h.setReason j d r).record j =
      headerRecord (h.handle j) { d with place := .isolated r } d.control.base := by
  have used : (h.setReason j d r).ctx j = some { d with place := .isolated r } :=
    (Hub.ctx_putCtx ..).trans (if_pos rfl)
  rw [Hub.record_isolated used rfl, Hub.setReason, Hub.handle_putCtx]

/-- No port lists an isolated frame (R160). -/
theorem Hub.leaveOwner_isolated (h : Hub) (place : c.place = .isolated r) : h.leaveOwner j c = h := by
  rw [Hub.leaveOwner, place]

/-! ### INSPECT (R163, R164) -/

theorem bodyOf_inspect {s : State} {p : PortId} {off n : Nat} (on : s.hub.online p = true) (tag : Tag)
    (used : s.hub.ctx j = some c) (place : c.place = .isolated r) (hoff : off < 64) (hn : n < 32) :
    bodyOf s.hub (.inspect p tag [s.hub.handleWord j (rangeHalf off n)]) = s.hub.inspectWith j c (off, n) := by
  have hb := bodyOf_handled (i := .inspect p tag [s.hub.handleWord j (rangeHalf off n)]) on used
    (Place.isolated_isIsolated place) rfl
  rwa [readRange_handleWord _ _ hoff hn] at hb

theorem Hub.inspectWith_none (used : h.ctx j = some c) (place : c.place = .isolated r) (off : Nat) :
    h.inspectWith j c (off, 0) = (h, .okWith (headerRecord (h.handle j) c c.control.base)) := by
  rw [← Hub.record_isolated used place]
  exact if_pos rfl

section Count
variable {off n : Nat}

theorem Hub.inspectWith_badValue (bad : 16 < n ∨ 1 ≤ n ∧ c.len < off + n) :
    h.inspectWith j c (off, n) = (h, .bare .badValue) :=
  (if_neg (show n ≠ 0 by omega)).trans (if_pos (bad.imp_right And.right))

variable (positive : 1 ≤ n) (few : n ≤ 16) (fits : off + n ≤ c.len)
include positive few fits

theorem Hub.inspectWith_inRange : h.inspectWith j c (off, n) = if h.damagedIn c off n then
      (h.setReason j c .memoryError, .okWith ((h.setReason j c .memoryError).record j ++ [1]))
    else (h, .okWith (h.record j ++ [0] ++ h.readWords c off n)) :=
  (if_neg (Nat.ne_of_gt positive)).trans (if_neg (by simp only [Config.moveMax]; omega))

/-- A damaged block in the range becomes the reason of the frame, and its record shows that (R164). -/
theorem Hub.inspectWith_damaged (damaged : h.damagedIn c off n = true) :
    h.inspectWith j c (off, n) = (h.setReason j c .memoryError,
      .okWith (headerRecord (h.handle j) { c with place := .isolated .memoryError } c.control.base ++ [1])) := by
  rw [Hub.inspectWith_inRange positive few fits, if_pos damaged, Hub.setReason_record]

theorem Hub.inspectWith_sound (used : h.ctx j = some c) (place : c.place = .isolated r)
    (sound : ¬ h.damagedIn c off n = true) :
    h.inspectWith j c (off, n) =
      (h, .okWith (headerRecord (h.handle j) c c.control.base ++ [0] ++ h.readWords c off n)) := by
  rw [Hub.inspectWith_inRange positive few fits, if_neg sound, Hub.record_isolated used place]

end Count

/-! ### The words of a REPAIR (R180) -/

/-- The upper half of the first word of a REPAIR: whether a new check follows, and how many field changes. -/
def repairHalf (a : RepairArgs) : BitVec 16 :=
  0#13 ++ BitVec.ofBool a.check.isSome ++ BitVec.ofNat 2 a.changes.length

/-- The words of a REPAIR after its first: the field changes, and the new check where there is one. -/
def repairRest (a : RepairArgs) : List Word := a.changes.map changeWord ++ (a.check.map halfWord).toList

theorem mapM_readChange (fs : List FieldChange) : (fs.map changeWord).mapM readChange = some fs := by
  induction fs with
  | nil => rfl
  | cons f fs ih => simp [readChange_changeWord, ih]

theorem readRepairCheck_halfWord (check : Option (BitVec 16)) :
    readRepairCheck check.isSome (check.map halfWord).toList = some check := by
  cases check with
  | none => rfl
  | some x =>
    obtain ⟨clear, value⟩ := halfWord_check x
    simp [readRepairCheck, clear, value]

/-- The first word of a REPAIR has no unused bit set, and gives back the count of its changes and whether a check
follows. -/
theorem repairHalf_fields (h : Hub) (j : FrameId) {a : RepairArgs} (few : a.changes.length ≤ 3) :
    clearIn (h.handleWord j (repairHalf a)) 0xFFF80000#32 = true ∧
      (bits (h.handleWord j (repairHalf a)) 16 2).toNat = a.changes.length ∧
      bit (h.handleWord j (repairHalf a)) 18 = a.check.isSome := by
  have unused : repairHalf a &&& 0xFFF8#16 = 0#16 := by
    rw [show (0xFFF8#16) = 0x1FFF#13 ++ 0#1 ++ 0#2 from rfl, repairHalf, BitVec.and_append, BitVec.and_append]
    simp
  refine ⟨(clearIn_append (repairHalf a) (h.handle j) 0xFFF8#16).trans (by rw [unused]; rfl), ?_, ?_⟩
  · rw [bits, Hub.handleWord, repairHalf, BitVec.extractLsb'_append_eq_of_le (by decide),
      BitVec.extractLsb'_append_eq_of_add_le (by decide), BitVec.extractLsb'_eq_self,
      toNat_ofNat_of_lt (Nat.lt_succ_of_le few)]
  · simp only [bit, Hub.handleWord, repairHalf, BitVec.getLsbD_append]
    simp

/-- The words of a REPAIR give back its changes and its check. -/
theorem readRepair_handleWord (h : Hub) (j : FrameId) {a : RepairArgs} (few : a.changes.length ≤ 3) :
    readRepair (h.handleWord j (repairHalf a)) (repairRest a) = some a := by
  obtain ⟨clear, count, present⟩ := repairHalf_fields h j few
  have changes : (repairRest a).take a.changes.length = a.changes.map changeWord :=
    List.take_left' (List.length_map ..)
  have check : (repairRest a).drop a.changes.length = (a.check.map halfWord).toList :=
    List.drop_left' (List.length_map ..)
  have enough : a.changes.length ≤ (repairRest a).length := by simp [repairRest]
  simp only [readRepair, clear, count, present, enough, changes, check, mapM_readChange, readRepairCheck_halfWord,
    decide_true, Bool.and_self, if_true]

theorem bodyOf_repair {s : State} {p : PortId} (on : s.hub.online p = true) (tag : Tag)
    (used : s.hub.ctx j = some c) (place : c.place = .isolated r) {a : RepairArgs} (few : a.changes.length ≤ 3) :
    bodyOf s.hub (.repair p tag (s.hub.handleWord j (repairHalf a) :: repairRest a)) = s.hub.repairWith j c a := by
  have hb := bodyOf_handled (i := .repair p tag (s.hub.handleWord j (repairHalf a) :: repairRest a)) on used
    (Place.isolated_isIsolated place) rfl
  rwa [readRepair_handleWord s.hub j few] at hb

/-! ### The refusals of REPAIR (R166) -/

theorem any_readOnly_iff (fs : List FieldChange) : fs.any FieldChange.readOnly = true ↔
    ∃ f ∈ fs, 4 ≤ f.selector.toNat ∧ f.selector.toNat ≤ 9 := by
  simp only [List.any_eq_true, FieldChange.readOnly, decide_eq_true_eq]

theorem sameFieldTwice_iff (fs : List FieldChange) :
    sameFieldTwice fs = true ↔ ¬ (fs.map (·.selector)).Nodup := by
  induction fs with
  | nil => simp [sameFieldTwice]
  | cons f fs ih =>
    have again : fs.any (fun g => g.selector == f.selector) = true ↔ f.selector ∈ fs.map (·.selector) := by
      simp only [List.any_eq_true, beq_iff_eq, List.mem_map]
    rw [sameFieldTwice, Bool.or_eq_true, again, ih, List.map_cons, List.nodup_cons, not_and_or, not_not]

theorem misnamed_iff (fs : List FieldChange) : (fs.any FieldChange.noField || sameFieldTwice fs) = true ↔
    (∃ f ∈ fs, f.selector.toNat = 0 ∨ 10 ≤ f.selector.toNat) ∨ ¬ (fs.map (·.selector)).Nodup := by
  simp only [Bool.or_eq_true, List.any_eq_true, FieldChange.noField, decide_eq_true_eq, sameFieldTwice_iff]

section Repair
variable {a : RepairArgs}

theorem Hub.repairWith_readOnly (readOnly : a.changes.any FieldChange.readOnly = true) :
    h.repairWith j c a = (h, .bare .readOnly) := if_pos readOnly

variable (writable : ¬ a.changes.any FieldChange.readOnly = true)
include writable

theorem Hub.repairWith_badValue
    (misnamed : (a.changes.any FieldChange.noField || sameFieldTwice a.changes) = true) :
    h.repairWith j c a = (h, .bare .badValue) := (if_neg writable).trans (if_pos misnamed)

variable (named : ¬ (a.changes.any FieldChange.noField || sameFieldTwice a.changes) = true)
include named

theorem Hub.repairWith_invalid
    (invalid : ¬ (a.changes.foldl FieldChange.setIn c.control.raw).Valid (h.cls c.control.cls).enabled) :
    h.repairWith j c a = (h, .bare .invalid) :=
  (if_neg writable).trans ((if_neg named).trans (by
    simp only [FieldChange.apply_eq_setIn, RawControl.check_of_not_valid invalid]))

/-- Past its refusals a REPAIR checks the image of the frame under the changed record and the new check (R167). -/
theorem Hub.repairWith_checked {k : Control}
    (passes : (a.changes.foldl FieldChange.setIn c.control.raw).check (h.cls c.control.cls).enabled = some k) :
    h.repairWith j c a = h.repairChecked j { c with control := k, check := a.check.getD c.check } :=
  (if_neg writable).trans ((if_neg named).trans (by simp only [FieldChange.apply_eq_setIn, passes]))

end Repair

/-! ### The check and its outcomes (R167, R168) -/

theorem Hub.repairChecked_failed (finds : h.checkImage c = some r) : h.repairChecked j c =
    (h.setReason j c r, { result := r.result, payload := [halfWord (h.handle j)] }) := by
  simp only [Hub.repairChecked, finds]

theorem Hub.repairChecked_matched (finds : h.checkImage c = none) : h.repairChecked j c =
    (((h.leaveIsolation j).makeAvailable j c .repaired none).1,
      .okWith [outcomeWord (h.handle j) ((h.leaveIsolation j).makeAvailable j c .repaired none).2]) := by
  simp only [Hub.repairChecked, finds]

/-- A frame that has left the Isolation List is granted as it would be from the hub before, since a grant does not read
that list. -/
theorem Hub.Grants.of_leaveIsolation {g : Hub} {i : FrameId} {cause : Cause} {passed : Option PortId} {q : PortId}
    (x : (h.leaveIsolation i).Grants g j c cause passed q) : h.Grants g j c cause passed q :=
  ⟨x.taken, x.oldest, x.frame, x.port, x.ports, x.classes⟩

/-- Nor does an insertion read it. -/
theorem Hub.Inserts.of_leaveIsolation {g : Hub} {i : FrameId} {cause : Cause} {passed : Option PortId}
    (x : (h.leaveIsolation i).Inserts g j c cause passed none) : h.Inserts g j c cause passed none :=
  ⟨x.untaken, x.frame, x.queue, x.ports, x.waitList⟩

theorem Hub.SameBeyond.of_leaveIsolation {g : Hub} {i : FrameId} {x : Reach}
    (same : (h.leaveIsolation i).SameBeyond g x) : h.SameBeyond g { x with isolation := True } :=
  ⟨same.frames, same.ports, same.classes, same.blocks, same.words, same.waitList, fun kept => absurd trivial kept⟩

/-- An isolated frame whose image matches leaves the list and is made available with cause REPAIRED (R168). -/
theorem makesAvailable_of_repaired {i : Instr} {s : State} {p : PortId} {req : Request}
    (banded : s.hub.QueuesBanded) (hr : requestOf i = some (p, req)) (admitted : Admitted i s)
    (place : c.place = .isolated r) (finds : s.hub.checkImage c = none)
    (hb : bodyOf s.hub i = s.hub.repairChecked j c) :
    MakesAvailable i s j c .repaired (s.hub.isolation.erase j) := by
  rw [Hub.repairChecked_matched finds] at hb
  have available := (s.hub.leaveIsolation j).makeAvailable_leaveOwner j c .repaired none banded
  rw [Hub.leaveOwner_isolated _ place] at available
  obtain ⟨outcome, isolation, same⟩ := available
  have rest := And.intro isolation same.of_leaveIsolation
  rcases outcome with ⟨q, granted, grants⟩ | ⟨queued, inserts⟩
  · rw [granted] at hb
    exact .inl ⟨q, takes_body_eq hr admitted hb ⟨grants.of_leaveIsolation, rest⟩⟩
  · rw [queued] at hb
    exact .inr (takes_body_eq hr admitted hb ⟨inserts.of_leaveIsolation, rest⟩)

end Isolated

end Sys2Proof.Machine

/-- Settles O29: past its count and its range an INSPECT goes by the damage of the blocks its words stand in. -/
theorem inspectReportsTheIsolatedFrame : Obligations.InspectReportsTheIsolatedFrame := by
  intro s p tag j c r off n on used place hoff hn i record damaged d admitted
  have hb : bodyOf s.hub i = s.hub.inspectWith j c (off, n) := bodyOf_inspect on tag used place hoff hn
  refine ⟨fun zero => ?_, fun bad => refused_body rfl admitted (hb.trans (Hub.inspectWith_badValue bad)),
    fun positive few fits => ⟨fun struck => ?_, fun sound => ?_⟩⟩
  · subst zero
    exact takes_body_eq rfl admitted (hb.trans (Hub.inspectWith_none used place off)) rfl
  · have struck := (s.hub.damagedIn_iff c off n).mpr struck
    exact takes_body_eq rfl admitted (hb.trans (Hub.inspectWith_damaged positive few fits struck))
      (s.hub.setReason_stays ..)
  · have sound := mt (s.hub.damagedIn_iff c off n).mp sound
    exact takes_body_eq rfl admitted (hb.trans (Hub.inspectWith_sound positive few fits used place sound)) rfl

/-- Settles O30: the three refusals come before anything is changed, and the changed record is stored under either
outcome of the check. -/
theorem repairMakesItsChangesBeforeTheCheck : Obligations.RepairMakesItsChangesBeforeTheCheck := by
  intro s p tag j c r fs check banded on used place few upper i readOnly misnamed changed admitted
  have hb : bodyOf s.hub i = s.hub.repairWith j c ⟨fs, check⟩ :=
    bodyOf_repair (a := ⟨fs, check⟩) on tag used place few
  refine ⟨fun fixed => ?_, fun writable => ?_⟩
  · exact refused_body rfl admitted (hb.trans (Hub.repairWith_readOnly ((any_readOnly_iff fs).mpr fixed)))
  replace writable := mt (any_readOnly_iff fs).mp writable
  refine ⟨fun bad => ?_, fun named => ?_⟩
  · exact refused_body rfl admitted (hb.trans (Hub.repairWith_badValue writable ((misnamed_iff fs).mpr bad)))
  replace named := mt (misnamed_iff fs).mp named
  refine ⟨fun invalid => refused_body rfl admitted (hb.trans (Hub.repairWith_invalid writable named invalid)),
    fun valid => ?_⟩
  obtain ⟨k, passes⟩ := RawControl.check_of_valid valid
  replace hb := hb.trans (Hub.repairWith_checked writable named passes)
  simp only [Hub.checkFinds_iff]
  refine ⟨k, (RawControl.valid_of_check passes).2, fun why finds => ?_,
    fun finds => makesAvailable_of_repaired banded rfl admitted place finds hb⟩
  replace hb := hb.trans (Hub.repairChecked_failed finds)
  cases why <;> exact takes_body_eq rfl admitted hb (s.hub.setReason_stays ..)
end

section
/-!
The Host Ports (chapter 11): the link checks outcome by outcome (R173, R175), and what a command can do to a Host Port
(R172 to R177).
-/
open Sys2Proof Sys2Proof.Machine
namespace Sys2Proof.Machine

/-! ### The header of a request (R180) -/

theorem Request.header_fields (r : Request) : bits r.header 24 8 = r.kind.code ∧ bits r.header 20 4 = r.tag ∧
    bits r.header 14 6 = BitVec.ofNat 6 r.payload.length ∧ bits r.header 0 14 = 0#14 := by
  simp (disch := omega) only [Request.header, bits, BitVec.extractLsb'_append_eq_of_add_le,
    BitVec.extractLsb'_append_eq_of_le]
  simp

theorem headerTag_header (r : Request) : headerTag r.header = r.tag := by
  obtain ⟨-, tag, -, -⟩ := r.header_fields
  exact tag

/-! ### The link checks (R173, R175) -/

section LinkChecks
variable {s : State} {p : PortId} {header : Word} {rest : List Word}

theorem State.receive_outstanding (out : (s.link p).outstanding = true) :
    s.receive p header rest = s.updLink p (fun l => { l with overrun := true }) := if_pos out

theorem State.receive_idle (idle : (s.link p).outstanding = false) :
    s.receive p header rest = s.linkCheck p header rest := if_neg (Bool.eq_false_iff.mp idle)

/-- A trailer that is missing or is not the frame check is a LINK_ERROR. -/
theorem State.linkCheck_linkError
    (bad : rest[headerLength header]? ≠ some (trailerOf header (rest.take (headerLength header)))) :
    s.linkCheck p header rest = s.answerAtOnce p (headerTag header) .linkError := by
  unfold State.linkCheck
  dsimp only
  cases found : rest[headerLength header]? with
  | none => rfl
  | some trailer => exact if_pos fun e => bad (by rw [found, e])

section Trailer
variable (good : rest[headerLength header]? = some (trailerOf header (rest.take (headerLength header))))
include good

theorem State.linkCheck_malformed (bad : bits header 0 14 ≠ 0#14 ∨ Config.payloadMax < headerLength header) :
    s.linkCheck p header rest = s.answerAtOnce p (headerTag header) .malformed := by
  simp only [State.linkCheck, good, ne_eq, not_true_eq_false, if_false]
  exact if_pos bad

theorem State.linkCheck_checked (form : ¬ (bits header 0 14 ≠ 0#14 ∨ Config.payloadMax < headerLength header)) :
    s.linkCheck p header rest =
      s.checkedFrame p header (trailerOf header (rest.take (headerLength header)))
        (rest.take (headerLength header)) := by
  simp only [State.linkCheck, good, ne_eq, not_true_eq_false, if_false]
  exact if_neg form

end Trailer

variable {trailer : Word} {payload : List Word} {k : CacheRec}

/-- A frame under the cached tag is answered from the replay cache, or SEQUENCE (R175). -/
theorem State.checkedFrame_cached (cached : (s.link p).cache = some k) (tag : k.response.tag = headerTag header) :
    s.checkedFrame p header trailer payload =
      State.updLink { s with hub := s.hub.restartLease p } p (fun l => { l with
        response := some (if k.header = header ∧ k.trailer = trailer then k.response
          else { tag := headerTag header, reply := .bare .sequence }) }) := by
  simp only [State.checkedFrame, cached, tag, if_true]
  split <;> rfl

/-- A frame under another tag than the cached one is accepted (R175). -/
theorem State.checkedFrame_fresh (fresh : ∀ k ∈ (s.link p).cache, k.response.tag ≠ headerTag header) :
    s.checkedFrame p header trailer payload =
      State.acceptFrame { s with hub := s.hub.restartLease p } p header trailer payload := by
  unfold State.checkedFrame
  dsimp only
  cases cached : (s.link p).cache with
  | none => rfl
  | some k => exact if_neg (fresh k cached)

theorem State.acceptFrame_unknown (unknown : ReqKind.ofCode (bits header 24 8) = none) :
    s.acceptFrame p header trailer payload =
      let x : Response := { tag := headerTag header, reply := .bare .unknownRequest }
      s.updLink p (fun l => { l with
        response := some x, cache := some { header := header, trailer := trailer, response := x } }) := by
  rw [State.acceptFrame, unknown]

theorem State.acceptFrame_known {kind : ReqKind} (known : ReqKind.ofCode (bits header 24 8) = some kind) :
    s.acceptFrame p header trailer payload = s.updLink p (fun l => { l with
      slot := some { kind := kind, tag := headerTag header, payload := payload } }) := by
  rw [State.acceptFrame, known]

end LinkChecks

/-! ### What a command does to a Host Port (R172 to R177) -/

/-- What an event does to one Host Port; `answers` are the replies an admitted request may be given. -/
inductive Link.Change (answers : Reply → Prop) (l : Link) : Link → Prop
  /-- Words go out in a window (R172). -/
  | sends (ws : List Word) : Change answers l { l with hso := ws }
  /-- The response has been read (R172, R174). -/
  | read : Change answers l { l with response := none, overrun := false }
  /-- A frame arrives while a request is outstanding (R174). -/
  | discards (out : l.outstanding = true) : Change answers l { l with overrun := true }
  /-- A frame is answered at once (R173, R175). -/
  | replies (idle : l.outstanding = false) (tag : Tag) (r : Result) :
      Change answers l { l with response := some { tag := tag, reply := .bare r } }
  /-- The cached response is given again (R175). -/
  | replays (idle : l.outstanding = false) {k : CacheRec} (cached : l.cache = some k) :
      Change answers l { l with response := some k.response }
  /-- A frame with an unknown code is answered and recorded (R173). -/
  | records (idle : l.outstanding = false) {k : CacheRec} (tag : headerTag k.header = k.response.tag)
      (bare : k.response.reply.payload = []) :
      Change answers l { l with response := some k.response, cache := some k }
  /-- A request enters the slot (R173, R176). -/
  | fills (idle : l.outstanding = false) {r : Request} (short : r.payload.length ≤ Config.payloadMax) :
      Change answers l { l with slot := some r }
  /-- A request is admitted and answered, and recorded unless it is a LEAVE that is taken (R135, R175). -/
  | answers (r : Request) {y : Reply} (given : answers y) {c : Option CacheRec}
      (cached : ∀ k ∈ c, k = { header := r.header, trailer := r.trailer, response := { tag := r.tag, reply := y } }) :
      Change answers l { l with slot := none, response := some { tag := r.tag, reply := y }, cache := c }
  /-- A BREAK (R146). -/
  | abandons : Change answers l { l with slot := none, response := none, overrun := false, cache := none }
  /-- A fence (R139). -/
  | forgets : Change answers l { l with cache := none }

/-- What a command does to one Host Port: one thing after another. -/
abbrev Link.Changes (answers : Reply → Prop) : Link → Link → Prop := Relation.ReflTransGen (Link.Change answers)

theorem Link.outstanding_eq_false {l : Link} (idle : l.outstanding = false) : l.slot = none ∧ l.response = none := by
  simpa [Link.outstanding] using idle

/-- One change keeps a Host Port legal (R173 to R175). -/
theorem Link.Legal.change {answers : Reply → Prop} {l m : Link} (hl : l.Legal) (c : l.Change answers m) : m.Legal := by
  obtain ⟨single, overrun, short, tagged⟩ := hl
  cases c with
  | sends ws => exact ⟨single, overrun, short, tagged⟩
  | read => exact ⟨fun _ => rfl, nofun, short, tagged⟩
  | discards out => exact ⟨single, fun _ => out, short, tagged⟩
  | replies idle tag r =>
    obtain ⟨slot, -⟩ := Link.outstanding_eq_false idle
    exact ⟨fun filled => by simp [slot] at filled, fun _ => Bool.or_true _, short, tagged⟩
  | replays idle cached =>
    obtain ⟨slot, -⟩ := Link.outstanding_eq_false idle
    exact ⟨fun filled => by simp [slot] at filled, fun _ => Bool.or_true _, short, tagged⟩
  | records idle tag bare =>
    obtain ⟨slot, -⟩ := Link.outstanding_eq_false idle
    refine ⟨fun filled => by simp [slot] at filled, fun _ => Bool.or_true _, short, ?_⟩
    rintro k ⟨⟩
    exact tag
  | fills idle fits =>
    obtain ⟨-, response⟩ := Link.outstanding_eq_false idle
    refine ⟨fun _ => response, fun _ => rfl, ?_, tagged⟩
    rintro r ⟨⟩
    exact fits
  | answers r given cached =>
    refine ⟨nofun, fun _ => rfl, nofun, fun k hk => ?_⟩
    rw [cached k hk]
    exact headerTag_header r
  | abandons => exact ⟨nofun, nofun, nofun, nofun⟩
  | forgets => exact ⟨single, overrun, short, nofun⟩

/-- One change keeps the responses of a Host Port within the payload of a response frame, where the answers that may be
given are (R177). -/
theorem Link.ResponsesFit.change {answers : Reply → Prop} {l m : Link}
    (fits : ∀ y, answers y → y.payload.length ≤ Config.responseMax) (hl : l.ResponsesFit) (c : l.Change answers m) :
    m.ResponsesFit := by
  obtain ⟨response, cache⟩ := hl
  cases c with
  | sends ws => exact ⟨response, cache⟩
  | read => exact ⟨nofun, cache⟩
  | discards out => exact ⟨response, cache⟩
  | replies idle tag r =>
    refine ⟨?_, cache⟩
    rintro x ⟨⟩
    exact Nat.zero_le _
  | replays idle cached =>
    refine ⟨?_, cache⟩
    rintro x ⟨⟩
    exact cache _ cached
  | records idle tag bare =>
    refine ⟨?_, ?_⟩
    · rintro x ⟨⟩
      exact bare ▸ Nat.zero_le _
    · rintro k ⟨⟩
      exact bare ▸ Nat.zero_le _
  | fills idle short => exact ⟨response, cache⟩
  | answers r given cached =>
    refine ⟨?_, fun k hk => ?_⟩
    · rintro x ⟨⟩
      exact fits _ given
    · rw [cached k hk]
      exact fits _ given
  | abandons => exact ⟨nofun, nofun⟩
  | forgets => exact ⟨response, nofun⟩

/-! ### Every command by what it does to the Host Ports -/

/-- Each Host Port goes on by what an event may do to it. -/
def State.LinksChange (answers : PortId → Reply → Prop) (s t : State) : Prop :=
  ∀ q, (s.link q).Changes (answers q) (t.link q)

section Links
variable {answers : PortId → Reply → Prop} {s t u : State} {p : PortId}

theorem State.LinksChange.of_links (links : ∀ q, t.link q = s.link q) : s.LinksChange answers t := fun q => by
  rw [links]

theorem State.LinksChange.trans (a : s.LinksChange answers t) (b : t.LinksChange answers u) :
    s.LinksChange answers u := fun q => (a q).trans (b q)

/-- One Host Port changes, and the others are as before. -/
theorem State.LinksChange.one (change : (s.link p).Change (answers p) (t.link p))
    (others : ∀ q, q ≠ p → t.link q = s.link q) : s.LinksChange answers t := fun q => by
  by_cases own : q = p
  · rw [own]
    exact .single change
  · rw [others q own]

theorem State.LinksChange.updLink {f : Link → Link} (change : (s.link p).Change (answers p) (f (s.link p))) :
    s.LinksChange answers (s.updLink p f) :=
  .one (by rwa [State.updLink_link, if_pos rfl]) fun q other => by rw [State.updLink_link, if_neg other]

theorem State.sendWindow_changes (n : Nat) : s.LinksChange answers (s.sendWindow p n) := .updLink (.sends _)

theorem State.endWindow_changes (n : Nat) : s.LinksChange answers (s.endWindow p n) := by
  unfold State.endWindow
  split
  · split
    · exact .updLink .read
    · exact .of_links fun _ => rfl
  · exact .of_links fun _ => rfl

theorem State.idleWindow_changes (n : Nat) : s.LinksChange answers (s.idleWindow p n) := .updLink (.sends _)

theorem State.breakPort_changes : s.LinksChange answers (s.breakPort p) :=
  .one (by rw [State.breakPort_link, if_pos rfl]; exact .abandons) fun q other => by
    rw [State.breakPort_link, if_neg other]

/-- An accepted frame is recorded as unknown, or fills the slot. -/
theorem State.acceptFrame_changes (idle : (s.link p).outstanding = false) (header trailer : Word)
    {payload : List Word} (short : payload.length ≤ Config.payloadMax) :
    s.LinksChange answers (s.acceptFrame p header trailer payload) := by
  cases found : ReqKind.ofCode (bits header 24 8) with
  | none =>
    rw [State.acceptFrame_unknown found]
    exact .updLink (.records idle rfl rfl (k := { header := header, trailer := trailer, response := _ }))
  | some kind =>
    rw [State.acceptFrame_known found]
    exact .updLink (.fills idle short)

/-- A checked frame is replayed, out of sequence, or accepted. -/
theorem State.checkedFrame_changes (idle : (s.link p).outstanding = false) (header trailer : Word)
    {payload : List Word} (short : payload.length ≤ Config.payloadMax) :
    s.LinksChange answers (s.checkedFrame p header trailer payload) := by
  by_cases fresh : ∀ k ∈ (s.link p).cache, k.response.tag ≠ headerTag header
  · rw [State.checkedFrame_fresh fresh]
    exact State.acceptFrame_changes (s := { s with hub := s.hub.restartLease p }) idle header trailer short
  · push Not at fresh
    obtain ⟨k, cached, tag⟩ := fresh
    rw [State.checkedFrame_cached cached tag]
    refine State.LinksChange.updLink (s := { s with hub := s.hub.restartLease p }) ?_
    split
    · exact .replays idle cached
    · exact .replies idle _ _

theorem State.receive_changes (header : Word) (rest : List Word) :
    s.LinksChange answers (s.receive p header rest) := by
  cases out : (s.link p).outstanding with
  | true =>
    rw [State.receive_outstanding out]
    exact .updLink (.discards out)
  | false =>
    rw [State.receive_idle out]
    by_cases good : rest[headerLength header]? = some (trailerOf header (rest.take (headerLength header)))
    · by_cases form : bits header 0 14 ≠ 0#14 ∨ Config.payloadMax < headerLength header
      · rw [State.linkCheck_malformed good form]
        exact .updLink (.replies out _ _)
      · rw [State.linkCheck_checked good form]
        exact State.checkedFrame_changes out _ _
          ((List.length_take_le ..).trans (not_lt.mp fun long => form (.inr long)))
    · rw [State.linkCheck_linkError good]
      exact .updLink (.replies out _ _)

theorem State.window_changes (hsi : List Word) : s.LinksChange answers (s.window p hsi) := by
  unfold State.window
  dsimp only
  split
  · exact (State.sendWindow_changes _).trans (State.endWindow_changes _)
  · split
    · exact (State.sendWindow_changes _).trans State.breakPort_changes
    · exact (State.sendWindow_changes _).trans (State.receive_changes _ _)

theorem State.expireLease_changes : s.LinksChange answers (s.expireLease p) := by
  unfold State.expireLease
  split
  · exact .one (by rw [State.fencePort_link, if_pos rfl]; exact .forgets) fun q other => by
      rw [State.fencePort_link, if_neg other]
  · exact .of_links fun _ => rfl

theorem State.expireWait_link (s : State) (p q : PortId) : (s.expireWait p).link q = s.link q := by
  unfold State.expireWait; split <;> rfl

theorem State.expireGrace_link (s : State) (p q : PortId) : (s.expireGrace p).link q = s.link q := by
  unfold State.expireGrace; split <;> rfl

/-- Events that each change the Host Ports change them one after the other. -/
theorem State.LinksChange.foldl {α : Type} {f : State → α → State}
    (hf : ∀ (s : State) a, s.LinksChange answers (f s a)) (s : State) (l : List α) :
    s.LinksChange answers (l.foldl f s) := by
  induction l generalizing s with
  | nil => exact .of_links fun _ => rfl
  | cons a l ih => exact (hf s a).trans (ih _)

theorem State.takeDue_changes (s : State) : s.LinksChange answers s.takeDue := by
  have promotions := State.LinksChange.foldl (answers := answers)
    (f := fun s k => ((s.promoteBand k 2).promoteBand k 1).promoteBand k 0) (fun _ _ => .of_links fun _ => rfl) s
    allClasses
  exact promotions.trans ((State.LinksChange.foldl (fun s p => .of_links (s.expireWait_link p)) _ allPorts).trans
    ((State.LinksChange.foldl (fun s p => .of_links (s.expireGrace_link p)) _ allPorts).trans
      (State.LinksChange.foldl (fun s p => State.expireLease_changes (s := s) (p := p)) _ allPorts)))

/-- The admission of a request answers it at its port, or turns it away. -/
theorem State.admission_changes {r : Request} {body : Hub × Reply} (given : answers p body.2)
    (e : s.admission p r body = .next t) : s.LinksChange answers t := by
  unfold State.admission at e
  split at e
  · cases e
    refine .one ?_ fun q other => by rw [State.answered_link, if_neg other]
    rw [State.answered_link, if_pos rfl]
    refine .answers r given fun k hk => ?_
    split at hk
    · cases hk
    · exact (Option.some.inj hk).symm
  · cases e
    exact .of_links fun _ => rfl

end Links

/-- The answers a command may give at a port: the reply of the request it admits there. -/
def replyAt (h : Hub) (i : Instr) (q : PortId) (y : Reply) : Prop :=
  ∃ r, requestOf i = some (q, r) ∧ y = (bodyOf h i).2

/-- Every command but hub reset does to each Host Port what an event may do to it. -/
theorem exec_linksChange {i : Instr} {s t : State} (e : exec i s = .next t) (hi : i ≠ .hubReset) :
    s.LinksChange (replyAt s.hub i) t := by
  cases hr : requestOf i with
  | some x =>
    obtain ⟨p, r⟩ := x
    rw [exec_request hr] at e
    exact State.admission_changes ⟨r, hr, rfl⟩ e
  | none =>
    cases i <;> simp only [requestOf, reduceCtorEq] at hr
    case requestFrame p hsi =>
      simp only [exec, execRequestFrame] at e
      split at e <;> cases e
      · exact State.window_changes _
      · exact State.idleWindow_changes _
    case readWindow p n =>
      simp only [exec, execReadWindow] at e
      split at e <;> cases e
      · exact (State.sendWindow_changes n).trans (State.endWindow_changes n)
      · exact State.idleWindow_changes n
    case breakFrame p =>
      simp only [exec, execBreak] at e
      split at e <;> cases e
      · exact (State.sendWindow_changes 1).trans State.breakPort_changes
      · exact State.idleWindow_changes 1
    case hubReset => exact absurd rfl hi
    case hubReady => cases e; exact .of_links fun _ => rfl
    case timebaseTick =>
      simp only [exec, execTimebaseTick] at e
      split at e <;> cases e
      · exact .of_links fun _ => rfl
      · exact s.takeDue_changes.trans (.of_links (State.with_hub_link _ _))
    case leaseExpiry p => cases e; exact State.expireLease_changes
    case waitExpiry p => cases e; exact .of_links (s.expireWait_link p)
    case graceExpiry p => cases e; exact .of_links (s.expireGrace_link p)
    case agingPromotion k b => cases e; exact .of_links fun _ => rfl
    case fault b pos v =>
      simp only [exec, execFault] at e
      split at e <;> cases e
      · exact .of_links fun _ => rfl
      · exact .of_links fun _ => rfl

/-- A law of a Host Port that hub reset has, and that whatever a command does to the Host Port keeps, is kept by every
step. -/
theorem step_keeps_links {Law : Link → Prop} (reset : Law Link.reset) {s t : State}
    (change : ∀ {q i l m}, Law l → l.Change (replyAt s.hub i q) m → Law m) (hs : ∀ q, Law (s.link q))
    (e : step s = .next t) (q : PortId) : Law (t.link q) := by
  unfold step at e
  split at e
  · cases e; exact hs q
  · next i rest _ =>
    by_cases hi : i = .hubReset
    · subst hi
      cases e
      exact (State.reset_link q).symm ▸ reset
    · have changes : (s.link q).Changes (replyAt s.hub i q) (t.link q) := exec_linksChange e hi q
      exact Relation.ReflTransGen.rec (hs q) (fun _ c ih => change ih c) changes

end Sys2Proof.Machine
end

section
/-!
How many words the answer of each request holds (R177): an answer is bare, holds a fixed number of words, or goes by a
list whose length is bounded. No answer is longer than the payload of a response frame.
-/
open Sys2Proof Sys2Proof.Machine
namespace Sys2Proof.Machine

/-- The answer is within the payload of a response frame (R177). -/
def Reply.Fits (y : Reply) : Prop := y.payload.length ≤ Config.responseMax

theorem Reply.bare_fits (r : Result) : (Reply.bare r).Fits := Nat.zero_le _

/-- An answer that lists its words one by one fits by their count. -/
theorem Reply.fits_of_count {y : Reply} (few : Nat.ble y.payload.length 40 = true) : y.Fits :=
  Nat.le_of_ble_eq_true few

/-! ### The checks before a request -/

section Checks
variable {h : Hub} {p : PortId} {k : ReqKind} {α : Type}

theorem Hub.session_form_fits {args : Option α} {body : α → Hub × Reply} (taken : ∀ a, (body a).2.Fits) :
    (h.session k p (h.form args body)).2.Fits := by
  unfold Hub.session
  split
  · exact Reply.bare_fits _
  · cases args with
    | none => exact Reply.bare_fits _
    | some a => exact taken a

theorem Hub.session_handled_fits {accepts : Place → Bool} {payload : List Word} {args : Word → List Word → Option α}
    {body : FrameId → Context → α → Hub × Reply} (taken : ∀ i c a, (body i c a).2.Fits) :
    (h.session k p (h.handled accepts payload args body)).2.Fits := by
  unfold Hub.session
  split
  · exact Reply.bare_fits _
  · unfold Hub.handled
    split
    · exact Reply.bare_fits _
    · split
      · exact Reply.bare_fits _
      · unfold Hub.form
        split
        · exact Reply.bare_fits _
        · exact taken _ _ _

end Checks

/-! ### The lists an answer may hold -/

theorem headerRecord_length (hd : BitVec 16) (c : Context) (e : Prio) : (headerRecord hd c e).length = 5 := by
  cases trap : c.control.trap <;> simp [headerRecord, trapWords, trap]

theorem Hub.recordOf_length (h : Hub) (i : FrameId) (e : Prio) : (h.recordOf i e).length ≤ 5 := by
  unfold Hub.recordOf
  split
  · exact (headerRecord_length ..).le
  · exact Nat.zero_le _

theorem Hub.claimBest_length {h g : Hub} {p : PortId} {m : ClassSet} {ws : List Word}
    (best : h.claimBest p m = some (g, ws)) : ws.length ≤ 5 := by
  unfold Hub.claimBest at best
  split at best
  · cases best
  · split at best
    · cases best
    · cases best
      exact Hub.recordOf_length ..

theorem Hub.readWords_length (h : Hub) (c : Context) (off n : Nat) : (h.readWords c off n).length = n := by
  simp [Hub.readWords]

theorem pairWords_length (l : List (BitVec 16)) : (pairWords l).length = (l.length + 1) / 2 := by
  induction l using pairWords.induct with
  | case1 => rfl
  | case2 a => simp [pairWords]
  | case3 a b rest ih => simp only [pairWords, List.length_cons, ih]; omega

theorem Notice.words_length (n : Notice) : n.words.length = 2 := by cases n <;> rfl

theorem flatMap_words_length (l : List Notice) : (l.flatMap Notice.words).length = 2 * l.length := by
  induction l with
  | nil => rfl
  | cons n l ih => simp only [List.flatMap_cons, List.length_append, Notice.words_length, ih, List.length_cons]; omega

/-- A list of frames, each once, is within the Frame Pool. -/
theorem length_le_of_nodup {l : List FrameId} (once : l.Nodup) : l.length ≤ 64 := by
  simpa using once.length_le_card

theorem claimWords_length (r : ClaimRec) : (claimWords r).length = 2 := by cases r <;> rfl

/-- The STATUS response holds eight words and one for each frame of the port (R183). -/
theorem Hub.statusWords_length (h : Hub) (p : PortId) : (h.statusWords p).length =
    8 + (h.port p).hold.length + (h.port p).stack.length + (h.port p).filling.length := by
  simp only [Hub.statusWords, List.length_append, claimWords_length, List.length_map, List.length_cons, List.length_nil]

/-- Each frame of the group that is dealt with is restored, diverted, or no longer there. -/
theorem EndTally.foldl_deal_length (p : PortId) (l : List FrameId) (t : EndTally) :
    (l.foldl (fun t i => t.deal p i) t).restored.length + (l.foldl (fun t i => t.deal p i) t).diverted.length ≤
      t.restored.length + t.diverted.length + l.length := by
  induction l generalizing t with
  | nil => exact le_rfl
  | cons i l ih =>
    have one : (t.deal p i).restored.length + (t.deal p i).diverted.length ≤
        t.restored.length + t.diverted.length + 1 := by
      unfold EndTally.deal
      split
      · omega
      · split
        · simp only [List.length_append, List.length_singleton]; omega
        · simp only [List.length_append, List.length_singleton]; omega
    have rest := ih (t.deal p i)
    rw [List.foldl_cons, List.length_cons]
    omega

theorem Hub.endService_length (h : Hub) (p : PortId) (v : Urgent) :
    (h.endService p v).restored.length + (h.endService p v).diverted.length ≤ (h.port p).group.length :=
  (EndTally.foldl_deal_length p (h.port p).group _).trans (by simp)

theorem EndTally.payload_length (t : EndTally) (h : Hub) (v : Urgent) (l : Latch) :
    (t.payload h v l).length = t.restored.length + t.diverted.length + 3 := by
  simp only [EndTally.payload, List.length_cons, List.length_append, List.length_map, List.length_nil]

/-! ### The requests past their checks -/

section Requests
variable {h : Hub} {p : PortId} {i : FrameId} {c : Context}

theorem Hub.joinWith_fits (t : Settings) : (h.joinWith p t).2.Fits := by
  unfold Hub.joinWith
  repeat' split
  all_goals exact Reply.fits_of_count rfl

theorem Hub.parkOpenWith_fits (a : ParkOpenArgs) : (h.parkOpenWith p a).2.Fits := by
  unfold Hub.parkOpenWith
  repeat' split
  all_goals exact Reply.fits_of_count rfl

theorem Hub.parkWriteWith_fits (a : Nat × List Word) : (h.parkWriteWith p i c a).2.Fits := by
  unfold Hub.parkWriteWith
  repeat' split
  all_goals exact Reply.fits_of_count rfl

theorem Hub.parkCloseWith_fits : (h.parkCloseWith i c).2.Fits := by
  unfold Hub.parkCloseWith
  split
  all_goals exact Reply.fits_of_count rfl

theorem Hub.claimWith_fits (m : ClassSet) : (h.claimWith p m).2.Fits := by
  unfold Hub.claimWith
  split
  · exact Reply.bare_fits _
  · split
    · exact Reply.bare_fits _
    · split
      · exact Reply.bare_fits _
      · next best => exact (Hub.claimBest_length best).trans (by decide)

theorem Hub.readImageWith_fits (a : Nat × Nat) : (h.readImageWith i c a).2.Fits := by
  unfold Hub.readImageWith
  split
  · exact Reply.bare_fits _
  · next fits =>
    split
    · exact Reply.fits_of_count rfl
    · have few : (h.readWords c a.1 a.2).length ≤ 16 := by
        rw [Hub.readWords_length]
        exact not_lt.mp fun many => fits (.inr (.inl many))
      exact few.trans (by decide)

theorem Hub.writeImageWith_fits (a : Nat × List Word) : (h.writeImageWith p i c a).2.Fits := by
  unfold Hub.writeImageWith
  split
  all_goals exact Reply.bare_fits _

theorem Hub.editWith_fits (f : FieldChange) : (h.editWith i c f).2.Fits := by
  unfold Hub.editWith
  split
  · exact Reply.bare_fits _
  · split
    · exact Reply.bare_fits _
    · split
      · exact Reply.bare_fits _
      · exact (Hub.recordOf_length ..).trans (by decide)

theorem Hub.returnWith_fits : (h.returnWith p i c).2.Fits := by
  unfold Hub.returnWith
  split
  all_goals exact Reply.fits_of_count rfl

theorem Hub.claimWaitWith_fits (a : ClassSet × Nat) : (h.claimWaitWith p a).2.Fits := by
  unfold Hub.claimWaitWith
  split
  · exact Reply.bare_fits _
  · split
    · exact Reply.bare_fits _
    · split
      · exact Reply.bare_fits _
      · split
        · next best => exact (Hub.claimBest_length best).trans (by decide)
        · exact Reply.bare_fits _

theorem Hub.claimResultNow_fits : (h.claimResultNow p).2.Fits := by
  unfold Hub.claimResultNow
  repeat' split
  all_goals exact Reply.fits_of_count rfl

theorem Hub.claimCancelNow_fits : (h.claimCancelNow p).2.Fits := by
  unfold Hub.claimCancelNow
  split
  all_goals exact Reply.fits_of_count rfl

theorem Hub.suspendWith_fits : (h.suspendWith p i).2.Fits := by
  unfold Hub.suspendWith
  split
  all_goals exact Reply.fits_of_count rfl

theorem Hub.resumeTopNow_fits : (h.resumeTopNow p).2.Fits := by
  unfold Hub.resumeTopNow
  split
  · exact Reply.bare_fits _
  · split
    · exact Reply.bare_fits _
    · split
      · exact Reply.bare_fits _
      · exact (Hub.recordOf_length ..).trans (by decide)

theorem Hub.postUrgent_fits (n : Urgent) : (h.postUrgent p n).2.Fits := by
  unfold Hub.postUrgent
  split
  all_goals exact Reply.bare_fits _

theorem Hub.preemptWith_fits (a : PortId × ClassId) : (h.preemptWith p a).2.Fits := by
  unfold Hub.preemptWith
  split
  · exact Reply.bare_fits _
  · split
    · exact Reply.bare_fits _
    · split
      · exact Reply.bare_fits _
      · exact Hub.postUrgent_fits _

/-- TAKE_PREEMPT answers the notice word, the count of saved frames, and the record of the frame it claims (R117). -/
theorem Hub.takePreemptNow_fits : (h.takePreemptNow p).2.Fits := by
  unfold Hub.takePreemptNow
  split
  · split
    · exact Reply.bare_fits _
    · dsimp only
      split
      · next best => exact (Nat.add_le_add_right (Hub.claimBest_length best) 2).trans (by decide)
      · exact Reply.fits_of_count rfl
  · exact Reply.bare_fits _

/-- END_PREEMPT answers three words and one for each frame of the group, of which there are four at most (R97). -/
theorem Hub.endPreemptWith_fits (legal : (h.port p).GroupLegal) (v : Urgent) : (h.endPreemptWith p v).2.Fits := by
  unfold Hub.endPreemptWith
  dsimp only
  split
  · exact Reply.bare_fits _
  · split
    · exact Reply.bare_fits _
    · split
      · exact Reply.bare_fits _
      · obtain ⟨-, few⟩ := legal
        have dealt := h.endService_length p v
        have len := (h.endService p v).payload_length h v (h.port p).latchAfter
        show ((h.endService p v).payload h v (h.port p).latchAfter).length ≤ 40
        simp only [Config.holdMax] at few
        omega

theorem Hub.endPreemptNow_fits (legal : (h.port p).GroupLegal) : (h.endPreemptNow p).2.Fits := by
  unfold Hub.endPreemptNow
  split
  · exact Hub.endPreemptWith_fits legal _
  · exact Hub.endPreemptWith_fits legal _
  · exact Reply.bare_fits _

/-- INSPECT answers the record, a mark, and 16 image words at most (R164). -/
theorem Hub.inspectWith_fits (a : Nat × Nat) : (h.inspectWith i c a).2.Fits := by
  unfold Hub.inspectWith
  split
  · exact (Hub.recordOf_length ..).trans (by decide)
  · split
    · exact Reply.bare_fits _
    · next fits =>
      split
      · have record := (h.setReason i c .memoryError).recordOf_length i ((h.setReason i c .memoryError).effOf i)
        show ((h.setReason i c .memoryError).record i ++ [1#32]).length ≤ 40
        rw [List.length_append, List.length_singleton]
        exact (Nat.add_le_add_right record 1).trans (by decide)
      · have record : (h.record i).length ≤ 5 := h.recordOf_length i (h.effOf i)
        show (h.record i ++ [0#32] ++ h.readWords c a.1 a.2).length ≤ 40
        rw [List.length_append, List.length_append, List.length_singleton, Hub.readWords_length]
        have few : a.2 ≤ 16 := not_lt.mp fun many => fits (.inl many)
        omega

theorem Hub.isolationWriteWith_fits (a : Nat × List Word) : (h.isolationWriteWith c a).2.Fits := by
  unfold Hub.isolationWriteWith
  split
  all_goals exact Reply.bare_fits _

theorem Hub.repairWith_fits (a : RepairArgs) : (h.repairWith i c a).2.Fits := by
  unfold Hub.repairWith Hub.repairChecked
  repeat' split
  all_goals exact Reply.fits_of_count rfl

/-- NOTICE_READ answers two counts and two words for each of four notices at most (R155). -/
theorem Hub.noticeReadWith_fits (n : Nat) : (h.noticeReadWith p n).2.Fits := by
  unfold Hub.noticeReadWith
  split
  · exact Reply.bare_fits _
  · next few =>
    have taken : ((h.port p).notices.take n).length ≤ n := List.length_take_le ..
    show (((h.port p).notices.take n).flatMap Notice.words).length + 2 ≤ 40
    rw [flatMap_words_length]
    omega

theorem Hub.classSetWith_fits (a : ClassSetArgs) : (h.classSetWith a).2.Fits := by
  unfold Hub.classSetWith
  repeat' split
  all_goals exact Reply.bare_fits _

/-- STATUS answers eight words and one for each frame the port keeps, within the bounds of its lists (R183). -/
theorem Hub.statusWords_fits (bounded : (h.port p).Bounded) : (Reply.okWith (h.statusWords p)).Fits := by
  obtain ⟨held, stacked, filling, -⟩ := bounded
  show (h.statusWords p).length ≤ 40
  rw [Hub.statusWords_length]
  simp only [Port.holdCount, Config.holdMax, Config.stackMax, Config.fillMax] at held stacked filling
  omega

/-- ISOLATION_LIST answers the count and the handles two to a word (R162). -/
theorem Hub.isolationList_fits (once : h.isolation.Nodup) :
    (Reply.okWith (valueWord h.isolation.length :: pairWords (h.isolation.map h.handle))).Fits := by
  have few := length_le_of_nodup once
  show (pairWords (h.isolation.map h.handle)).length + 1 ≤ 40
  rw [pairWords_length, List.length_map]
  omega

end Requests

/-- In a hub whose frames are filed and whose ports are within their bounds the answer to every request fits (R177). -/
theorem request_fits {h : Hub} (filed : h.Filed) (bounded : h.PortsBounded) {n : Instr} {p : PortId} {r : Request}
    (e : requestOf n = some (p, r)) : (bodyOf h n).2.Fits := by
  obtain ⟨lists, group, -⟩ := bounded p
  cases n <;> simp only [requestOf, Option.some.injEq, Prod.mk.injEq, reduceCtorEq] at e
  all_goals obtain ⟨rfl, rfl⟩ := e
  case join => exact Hub.session_form_fits Hub.joinWith_fits
  case leave =>
    refine Hub.session_form_fits fun _ => ?_
    split
    · exact Reply.bare_fits _
    · exact Reply.bare_fits _
  case renew => exact Hub.session_form_fits fun _ => Reply.fits_of_count rfl
  case status => exact Hub.session_form_fits fun _ => Hub.statusWords_fits lists
  case hubInfo => exact Hub.session_form_fits fun _ => Reply.fits_of_count rfl
  case subscribe => exact Hub.session_form_fits fun _ => Reply.bare_fits _
  case parkOpen => exact Hub.session_form_fits Hub.parkOpenWith_fits
  case parkWrite => exact Hub.session_handled_fits fun _ _ => Hub.parkWriteWith_fits
  case parkClose => exact Hub.session_handled_fits fun _ _ _ => Hub.parkCloseWith_fits
  case parkAbort => exact Hub.session_handled_fits fun _ _ _ => Reply.bare_fits _
  case claim => exact Hub.session_form_fits Hub.claimWith_fits
  case readImage => exact Hub.session_handled_fits fun _ _ => Hub.readImageWith_fits
  case writeImage => exact Hub.session_handled_fits fun _ _ => Hub.writeImageWith_fits
  case edit => exact Hub.session_handled_fits fun _ _ => Hub.editWith_fits
  case returnFrame => exact Hub.session_handled_fits fun _ _ _ => Hub.returnWith_fits
  case repark => exact Hub.session_handled_fits fun _ _ _ => Reply.fits_of_count rfl
  case retire => exact Hub.session_handled_fits fun _ _ _ => Reply.bare_fits _
  case claimWait => exact Hub.session_form_fits Hub.claimWaitWith_fits
  case claimResult => exact Hub.session_form_fits fun _ => Hub.claimResultNow_fits
  case claimCancel => exact Hub.session_form_fits fun _ => Hub.claimCancelNow_fits
  case suspend => exact Hub.session_handled_fits fun _ _ _ => Hub.suspendWith_fits
  case resumeTop => exact Hub.session_form_fits fun _ => Hub.resumeTopNow_fits
  case preempt => exact Hub.session_form_fits Hub.preemptWith_fits
  case takePreempt => exact Hub.session_form_fits fun _ => Hub.takePreemptNow_fits
  case endPreempt => exact Hub.session_form_fits fun _ => Hub.endPreemptNow_fits group
  case isolationList => exact Hub.session_form_fits fun _ => Hub.isolationList_fits filed.isolationNodup
  case inspect => exact Hub.session_handled_fits fun _ _ => Hub.inspectWith_fits
  case isolationWrite => exact Hub.session_handled_fits fun _ _ => Hub.isolationWriteWith_fits
  case repair => exact Hub.session_handled_fits fun _ _ => Hub.repairWith_fits
  case discard => exact Hub.session_handled_fits fun _ _ _ => Reply.bare_fits _
  case noticeRead => exact Hub.session_form_fits fun n => Hub.noticeReadWith_fits n.toNat
  case classSet => exact Hub.session_form_fits Hub.classSetWith_fits
  case classGet => exact Hub.session_form_fits fun _ => Reply.fits_of_count rfl

end Sys2Proof.Machine

/-- Settles O60: whatever a command does to a Host Port keeps it legal, and the answer of an admitted request fits. -/
theorem stepsKeepHostPortsLegal : Obligations.StepsKeepHostPortsLegal := by
  refine ⟨fun s t legal e => ?_, fun s t filed bounded fit e => ?_⟩
  · have reset : Link.reset.Legal := State.reset_link 0 ▸ State.reset_linksLegal 0
    exact step_keeps_links reset Link.Legal.change legal e
  · have reset : Link.reset.ResponsesFit := State.reset_link 0 ▸ State.reset_responsesFit 0
    refine step_keeps_links reset (fun hl change => hl.change ?_ change) fit e
    rintro y ⟨r, hr, rfl⟩
    exact request_fits filed bounded hr
end

section
/-!
The rotation of the arbiter (R176), and the request frames of a port: from the words of a window to the slot, the
answer, or the discarded frame (R172 to R175).
-/
open Sys2Proof Sys2Proof.Machine
namespace Sys2Proof.Machine

/-! ### The rotation of the arbiter (R176) -/

theorem State.nextAdmitted_eq (s : State) : s.nextAdmitted =
    ((List.finRange 4).find? (fun j => (s.link (s.arbiter + j)).slot.isSome)).map (s.arbiter + ·) := by
  have order : [s.arbiter, s.arbiter + 1, s.arbiter + 2, s.arbiter + 3] =
      (List.finRange 4).map (s.arbiter + ·) := by
    simp [List.finRange_succ]
  rw [State.nextAdmitted, order, List.find?_map]
  rfl

/-- The arbiter admits the first filled slot from its pointer upward. -/
theorem State.nextAdmitted_of_first {s : State} {k : Fin 4} (filled : (s.link (s.arbiter + k)).slot.isSome = true)
    (first : ∀ j < k, (s.link (s.arbiter + j)).slot = none) : s.nextAdmitted = some (s.arbiter + k) := by
  have found : (List.finRange 4).find? (fun j => (s.link (s.arbiter + j)).slot.isSome) = some k := by
    refine List.find?_eq_some_iff_getElem.mpr ⟨filled, k.val, by simp, by simp, fun j hj => ?_⟩
    have empty := first ⟨j, hj.trans k.isLt⟩ hj
    simpa using empty
  rw [State.nextAdmitted_eq, found]
  rfl

theorem State.nextAdmitted_of_empty {s : State} (empty : ∀ p, (s.link p).slot = none) : s.nextAdmitted = none := by
  have unfound : (List.finRange 4).find? (fun j => (s.link (s.arbiter + j)).slot.isSome) = none :=
    List.find?_eq_none.mpr fun j _ => by rw [empty]; exact Bool.false_ne_true
  rw [State.nextAdmitted_eq, unfound]
  rfl

/-- A request that is not admitted is turned away (notes/assumptions/1.md). -/
theorem exec_request_turnedAway {i : Instr} {s : State} {p : PortId} {r : Request} (hr : requestOf i = some (p, r))
    (away : ¬ Admitted i s) : exec i s = .next s := by
  rw [Admitted, hr] at away
  rw [exec_request hr]
  exact if_neg away

/-! ### The codes of the requests (R178) -/

theorem ReqKind.code_mem (k : ReqKind) : (k, k.code) ∈ requestCodes := by cases k <;> decide

theorem ReqKind.ofCode_code (k : ReqKind) : ReqKind.ofCode k.code = some k := by cases k <;> decide

/-- A code outside the table is unknown. -/
theorem ReqKind.ofCode_unlisted {code : BitVec 8} (unlisted : ∀ k : ReqKind, (k, code) ∉ requestCodes) :
    ReqKind.ofCode code = none :=
  List.find?_eq_none.mpr fun k _ known => unlisted k (eq_of_beq known ▸ k.code_mem)

/-! ### The frame check (R173) -/

theorem word_halves (w : Word) : (bits w 16 16).toNat = w.toNat / 65536 ∧ (bits w 0 16).toNat = w.toNat % 65536 := by
  have := w.isLt
  refine ⟨?_, ?_⟩
  · rw [bits, BitVec.extractLsb'_toNat, Nat.shiftRight_eq_div_pow]
    omega
  · rw [bits, BitVec.extractLsb'_toNat, Nat.shiftRight_zero]

/-- The frame check is the sum of the halves of the words, modulo 65536. -/
theorem halfSum_toNat (ws : List Word) :
    (halfSum ws).toNat = (ws.map (fun w => w.toNat / 65536 + w.toNat % 65536)).sum % 65536 := by
  have summed : ∀ (l : List Word) (acc : BitVec 16),
      (l.foldl (fun acc w => acc + bits w 16 16 + bits w 0 16) acc).toNat =
        (acc.toNat + (l.map (fun w => w.toNat / 65536 + w.toNat % 65536)).sum) % 65536 := fun l => by
    induction l with
    | nil => exact fun acc => (Nat.mod_eq_of_lt acc.isLt).symm
    | cons w l ih =>
      intro acc
      obtain ⟨upper, lower⟩ := word_halves w
      rw [List.foldl_cons, ih, BitVec.toNat_add, BitVec.toNat_add, upper, lower, List.map_cons, List.sum_cons]
      omega
  rw [halfSum, summed]
  exact congrArg (· % 65536) (Nat.zero_add _)

/-! ### The lease restart (R132) -/

section Lease
variable {h : Hub} {p : PortId}

theorem Hub.restartLease_offline (off : h.online p = false) : (h.restartLease p).port p = h.port p := by
  rw [Hub.restartLease, Hub.updPort_port, if_pos rfl]
  split
  · next on _ => rw [Hub.online, on] at off; cases off
  · rfl

theorem Hub.restartLease_online {n : Nat} {c : Settings} (on : (h.port p).state = .online n)
    (joined : (h.port p).settings = some c) :
    (h.restartLease p).port p = { h.port p with state := .online c.lease } := by
  rw [Hub.restartLease, Hub.updPort_port, if_pos rfl]
  split
  · next joined' =>
    rw [Option.some.inj (joined'.symm.trans joined)]
  · next neither => exact absurd joined (neither n c on)

theorem Hub.restartLease_sameBeyond (h : Hub) (p : PortId) : h.SameBeyond (h.restartLease p) { ports := (· = p) } :=
  h.updPort_sameBeyond p _

end Lease

/-! ### What an event at one port leaves alone -/

/-- The Host Ports but one, the arbiter, the readiness, the waiting commands, and the hub beyond that port are as
before. -/
structure State.OnlyPort (s t : State) (p : PortId) : Prop where
  others    : ∀ q, q ≠ p → t.link q = s.link q
  arbiter   : t.arbiter = s.arbiter
  readiness : t.readiness = s.readiness
  pending   : t.pending = s.pending
  hub       : s.hub.SameBeyond t.hub { ports := (· = p) }

section OnlyPort
variable {s t : State} {p : PortId}

theorem State.OnlyPort.refl (s : State) (p : PortId) : s.OnlyPort s p :=
  ⟨fun _ _ => rfl, rfl, rfl, rfl, .refl _ _⟩

theorem State.OnlyPort.updLink (x : s.OnlyPort t p) (f : Link → Link) : s.OnlyPort (t.updLink p f) p where
  others q other := by rw [State.updLink_link, if_neg other, x.others q other]
  arbiter := x.arbiter
  readiness := x.readiness
  pending := x.pending
  hub := x.hub

theorem State.OnlyPort.restartLease (x : s.OnlyPort t p) : s.OnlyPort { t with hub := t.hub.restartLease p } p where
  others := x.others
  arbiter := x.arbiter
  readiness := x.readiness
  pending := x.pending
  hub := x.hub.trans (t.hub.restartLease_sameBeyond p)

theorem State.OnlyPort.linkCheck (x : s.OnlyPort t p) (header : Word) (rest : List Word) :
    s.OnlyPort (t.linkCheck p header rest) p := by
  by_cases good : rest[headerLength header]? = some (trailerOf header (rest.take (headerLength header)))
  · by_cases form : bits header 0 14 ≠ 0#14 ∨ Config.payloadMax < headerLength header
    · rw [State.linkCheck_malformed good form]
      exact x.updLink _
    · rw [State.linkCheck_checked good form]
      by_cases fresh : ∀ k ∈ (t.link p).cache, k.response.tag ≠ headerTag header
      · rw [State.checkedFrame_fresh fresh]
        cases found : ReqKind.ofCode (bits header 24 8) with
        | none =>
          rw [State.acceptFrame_unknown found]
          exact x.restartLease.updLink _
        | some kind =>
          rw [State.acceptFrame_known found]
          exact x.restartLease.updLink _
      · push Not at fresh
        obtain ⟨k, cached, tag⟩ := fresh
        rw [State.checkedFrame_cached cached tag]
        exact x.restartLease.updLink _
  · rw [State.linkCheck_linkError good]
    exact x.updLink _

end OnlyPort

/-! ### The words of a window (R172) -/

theorem skipIdle_frame {header : Word} (busy : header ≠ Config.idleWord) (idles : Nat) (rest : List Word) :
    skipIdle (List.replicate idles Config.idleWord ++ header :: rest) = header :: rest := by
  have skipped : ∀ w ∈ List.replicate idles Config.idleWord, (w == Config.idleWord) = true := fun w hw =>
    beq_iff_eq.mpr (List.eq_of_mem_replicate hw)
  rw [skipIdle, List.dropWhile_append_of_pos skipped]
  exact List.dropWhile_cons_of_neg (by simpa using busy)

/-- A header is neither an IDLE word nor a BREAK: its reserved bits are zero. -/
theorem header_ne {header : Word} (clear : bits header 0 14 = 0#14) :
    header ≠ Config.idleWord ∧ header ≠ Config.breakWord :=
  ⟨fun e => absurd (e ▸ clear) (by decide), fun e => absurd (e ▸ clear) (by decide)⟩

section Window
variable {s : State} {p : PortId}

theorem State.sendWindow_link (s : State) (p : PortId) (n : Nat) :
    (s.sendWindow p n).link p = { s.link p with hso := s.windowWords p n } := by
  rw [State.sendWindow, State.updLink_link, if_pos rfl]

theorem State.sendWindow_onlyPort (s : State) (p : PortId) (n : Nat) : s.OnlyPort (s.sendWindow p n) p :=
  (State.OnlyPort.refl s p).updLink _

/-- Without a response a window is IDLE words. -/
theorem State.windowWords_idle (none : (s.link p).response = none) (n : Nat) :
    s.windowWords p n = List.replicate n Config.idleWord := by
  rw [State.windowWords, State.responseWords, none, List.nil_append, List.take_replicate, Nat.min_self]

theorem State.sendWindow_idle (idle : (s.link p).outstanding = false) (n : Nat) :
    (s.sendWindow p n).link p = { s.link p with hso := List.replicate n Config.idleWord } := by
  rw [State.sendWindow_link, State.windowWords_idle (Link.outstanding_eq_false idle).2]

theorem State.sendWindow_outstanding (s : State) (p : PortId) (n : Nat) :
    ((s.sendWindow p n).link p).outstanding = (s.link p).outstanding := by
  rw [State.sendWindow_link]
  rfl

theorem State.sendWindow_cache (s : State) (p : PortId) (n : Nat) :
    ((s.sendWindow p n).link p).cache = (s.link p).cache := by
  rw [State.sendWindow_link]

/-- A window with a header word is received as a request frame. -/
theorem exec_requestFrame_frame {hsi rest : List Word} {header : Word} (ready : s.isReady = true)
    (frame : skipIdle hsi = header :: rest) (word : header ≠ Config.breakWord) :
    exec (.requestFrame p hsi) s = .next ((s.sendWindow p hsi.length).receive p header rest) := by
  have taken : exec (.requestFrame p hsi) s = .next (s.window p hsi) := if_pos ready
  rw [taken, State.window, frame]
  exact congrArg Host.Outcome.next (if_neg word)

/-- With nothing outstanding the frame goes on to the link checks. -/
theorem exec_requestFrame_idle {hsi rest : List Word} {header : Word} (ready : s.isReady = true)
    (idle : (s.link p).outstanding = false) (frame : skipIdle hsi = header :: rest)
    (word : header ≠ Config.breakWord) :
    exec (.requestFrame p hsi) s = .next ((s.sendWindow p hsi.length).linkCheck p header rest) := by
  rw [exec_requestFrame_frame ready frame word,
    State.receive_idle ((s.sendWindow_outstanding p _).trans idle)]

end Window

/-! ### A frame that is checked (R173) -/

section Checked
variable {s : State} {p : PortId} {header : Word} {payload after : List Word}

/-- The words after a header give back the payload it announces, and the trailer behind it. -/
theorem rest_of_frame {ws rest : List Word} {w : Word} (e : rest = ws ++ w :: after) {n : Nat} (len : n = ws.length) :
    rest[n]? = some w ∧ rest.take n = ws := by
  subst e len
  exact ⟨by simp, List.take_left⟩

/-- A frame with its trailer, no reserved bit and 20 payload words at most passes the link checks. -/
theorem State.linkCheck_frame (len : headerLength header = payload.length) (short : payload.length ≤ 20)
    (clear : bits header 0 14 = 0#14) :
    s.linkCheck p header (payload ++ trailerOf header payload :: after) =
      s.checkedFrame p header (trailerOf header payload) payload := by
  obtain ⟨trailer, words⟩ := rest_of_frame (after := after) (w := trailerOf header payload) rfl len
  rw [State.linkCheck_checked, words]
  · rw [trailer, words]
  · rintro (reserved | long)
    · exact reserved clear
    · rw [len] at long
      exact absurd short (not_le.mpr long)

end Checked

end Sys2Proof.Machine

/-- Settles O2: an admitted request is answered with the reply of its body, and the arbiter searches from its
pointer. -/
theorem admittedRequestsAreAnsweredInRotation : Obligations.AdmittedRequestsAreAnsweredInRotation := by
  refine ⟨fun i s request => ?_, rfl, fun s k => State.nextAdmitted_of_first, fun s => State.nextAdmitted_of_empty⟩
  obtain ⟨⟨p, r⟩, hr⟩ := Option.isSome_iff_exists.mp request
  exact ⟨fun admitted => ⟨_, takes_body hr admitted rfl trivial⟩, exec_request_turnedAway hr⟩

/-- Settles O34: the header gives back the request, and the link checks put it into the slot. -/
theorem requestFrameFillsTheSlot : Obligations.RequestFrameFillsTheSlot := by
  intro s p r idles after ready idle short fresh hsi
  obtain ⟨code, tag, length, clear⟩ := r.header_fields
  have len : (bits r.header 14 6).toNat = r.payload.length := by
    rw [length]
    exact toNat_ofNat_of_lt (short.trans_lt (by decide))
  refine ⟨⟨rfl, code ▸ r.kind.code_mem, tag, len, clear⟩, ?_⟩
  obtain ⟨busy, word⟩ := header_ne clear
  have window : skipIdle hsi = r.header :: (r.payload ++ r.trailer :: after) := by
    rw [← skipIdle_frame busy idles]
    simp [hsi, Request.words]
  have sent := s.sendWindow_idle idle hsi.length
  have cache := s.sendWindow_cache p hsi.length
  have only := (s.sendWindow_onlyPort p hsi.length).restartLease.updLink (fun l => { l with slot := some r })
  have taken : exec (.requestFrame p hsi) s = .next (State.updLink
      { s.sendWindow p hsi.length with hub := s.hub.restartLease p } p (fun l => { l with slot := some r })) := by
    rw [exec_requestFrame_idle ready idle window word, Request.trailer, State.linkCheck_frame len short clear,
      State.checkedFrame_fresh (by rw [cache, headerTag_header]; exact fresh),
      State.acceptFrame_known (by rw [code]; exact ReqKind.ofCode_code _), headerTag_header]
    rfl
  refine ⟨_, taken, ?_, only.others, only.arbiter, only.readiness, only.pending, only.hub,
    Hub.restartLease_offline, fun n c => Hub.restartLease_online⟩
  rw [State.updLink_link, if_pos rfl, State.with_hub_link, sent]

/-- Settles O36: a frame that passes the link checks under the cached tag never reaches the slot. -/
theorem cachedTagReplaysOrIsOutOfSequence : Obligations.CachedTagReplaysOrIsOutOfSequence := by
  intro s p header payload k ready idle cached busy word clear len short tag trailer hsi
  have window : skipIdle hsi = header :: (payload ++ trailer :: []) := skipIdle_frame busy 0 _
  have sent := s.sendWindow_idle idle hsi.length
  have cache := (s.sendWindow_cache p hsi.length).trans cached
  have taken := exec_requestFrame_idle ready idle window word
  rw [State.linkCheck_frame len short clear, State.checkedFrame_cached cache tag.symm] at taken
  have only := (s.sendWindow_onlyPort p hsi.length).restartLease.updLink (fun l => { l with
    response := some (if k.header = header ∧ k.trailer = trailer then k.response
      else { tag := headerTag header, reply := .bare .sequence }) })
  refine ⟨_, taken, ?_, only.others, only.arbiter, only.readiness, only.pending, only.hub,
    Hub.restartLease_offline, fun n c => Hub.restartLease_online⟩
  rw [State.updLink_link, if_pos rfl, State.with_hub_link, sent]
  rfl

/-- Settles O35: each of the three answers is one outcome of the link checks. -/
theorem faultyFramesAreAnsweredAtOnce : Obligations.FaultyFramesAreAnsweredAtOnce := by
  refine ⟨?_, halfSum_toNat⟩
  intro s p header rest ready idle busy word n tag hso trailer bad
  have window : skipIdle (header :: rest) = header :: rest := skipIdle_frame busy 0 rest
  have only := (s.sendWindow_onlyPort p (rest.length + 1)).linkCheck header rest
  have sent : (s.sendWindow p (rest.length + 1)).link p = { s.link p with hso := hso } := s.sendWindow_idle idle _
  refine ⟨_, exec_requestFrame_idle ready idle window word, only.others, only.arbiter, only.readiness, only.pending,
    only.hub, fun wrong => ?_, fun right fault => ?_, fun right clear short fresh unlisted => ?_⟩
  · rw [List.length_cons, State.linkCheck_linkError wrong, State.answerAtOnce]
    refine ⟨rfl, ?_⟩
    rw [State.updLink_link, if_pos rfl, sent]
    rfl
  · rw [List.length_cons, State.linkCheck_malformed (not_not.mp right) fault, State.answerAtOnce]
    refine ⟨rfl, ?_⟩
    rw [State.updLink_link, if_pos rfl, sent]
    rfl
  · have cache := s.sendWindow_cache p (rest.length + 1)
    rw [List.length_cons, State.linkCheck_checked (not_not.mp right) (fun fault => fault.elim (· clear) short.not_gt),
      State.checkedFrame_fresh (by rw [cache]; exact fresh),
      State.acceptFrame_unknown (ReqKind.ofCode_unlisted unlisted)]
    refine ⟨?_, Hub.restartLease_offline, fun l c => Hub.restartLease_online⟩
    rw [State.updLink_link, if_pos rfl, State.with_hub_link, sent]
    rfl

/-- Settles O37: a frame that meets an outstanding request only sets OVERRUN. -/
theorem frameWhileOutstandingSetsOverrun : Obligations.FrameWhileOutstandingSetsOverrun := by
  intro s p header rest ready out busy word
  have window : skipIdle (header :: rest) = header :: rest := skipIdle_frame busy 0 rest
  have taken := exec_requestFrame_frame (p := p) ready window word
  rw [State.receive_outstanding ((s.sendWindow_outstanding p _).trans out)] at taken
  have only := (s.sendWindow_onlyPort p (header :: rest).length).updLink (fun l => { l with overrun := true })
  have own := congrArg (fun l : Link => { l with overrun := true }) (s.sendWindow_link p (header :: rest).length)
  refine ⟨_, taken, ?_, ?_, ?_, ?_, only.others, rfl, only.arbiter, only.readiness, only.pending⟩ <;>
    rw [State.updLink_link, if_pos rfl, State.sendWindow_link]
end

section
/-!
READ_WINDOW (R172, R177, R179): the words of a response as they are sent, and the end of a window.
-/
open Sys2Proof Sys2Proof.Machine
namespace Sys2Proof.Machine

/-! ### The words of a response (R177, R179) -/

theorem Result.code_mem (r : Result) : (r, r.code) ∈ resultCodes := by cases r <;> decide

theorem Response.header_fields (x : Response) (attn overrun : Bool) :
    bits (x.header attn overrun) 24 8 = x.reply.result.code ∧ bits (x.header attn overrun) 20 4 = x.tag ∧
    bits (x.header attn overrun) 14 6 = BitVec.ofNat 6 x.reply.payload.length ∧
    bit (x.header attn overrun) 13 = attn ∧ bit (x.header attn overrun) 12 = overrun ∧
    bits (x.header attn overrun) 0 12 = 0#12 := by
  refine ⟨?_, ?_, ?_, ?_, ?_, ?_⟩
  all_goals
    simp (disch := omega) only [Response.header, bits, bit, BitVec.extractLsb'_append_eq_of_add_le,
      BitVec.extractLsb'_append_eq_of_le, BitVec.getLsbD_append]
    simp

section Window
variable {s : State} {p : PortId} {n : Nat}

theorem State.windowWords_length (s : State) (p : PortId) (n : Nat) : (s.windowWords p n).length = n := by
  rw [State.windowWords, List.length_take, List.length_append, List.length_replicate]
  omega

/-- A window sends the unread response, and then IDLE words. -/
theorem State.windowWords_response {x : Response} (unread : (s.link p).response = some x) (n : Nat) :
    let header := x.header (s.attn p) (s.link p).overrun
    s.windowWords p n = (header :: (x.reply.payload ++ trailerOf header x.reply.payload ::
      List.replicate n Config.idleWord)).take n := by
  rw [State.windowWords, State.responseWords, unread]
  simp only [Response.words, List.cons_append, List.append_assoc, List.nil_append]

/-! ### The end of a window (R172, R174) -/

theorem State.endWindow_none (none : (s.link p).response = none) : s.endWindow p n = s := by
  rw [State.endWindow, none]

section Response
variable {x : Response} (unread : (s.link p).response = some x)
include unread

theorem State.endWindow_read (whole : x.reply.payload.length + 2 ≤ n) :
    s.endWindow p n = s.updLink p (fun l => { l with response := none, overrun := false }) := by
  simp only [State.endWindow, unread]
  exact if_pos whole

theorem State.endWindow_part (part : ¬ x.reply.payload.length + 2 ≤ n) : s.endWindow p n = s := by
  simp only [State.endWindow, unread]
  exact if_neg part

end Response

theorem State.OnlyPort.endWindow {t : State} (only : s.OnlyPort t p) : s.OnlyPort (t.endWindow p n) p := by
  unfold State.endWindow
  split
  · split
    · exact only.updLink _
    · exact only
  · exact only

/-- A window of reading: the slot and the cache stand, and the words sent are those of its start. -/
theorem State.endWindow_link (s : State) (p : PortId) (n : Nat) : ((s.endWindow p n).link p).slot = (s.link p).slot ∧
    ((s.endWindow p n).link p).cache = (s.link p).cache ∧ ((s.endWindow p n).link p).hso = (s.link p).hso := by
  unfold State.endWindow
  split
  · split
    · simp only [State.updLink_link, if_true, and_self]
    · exact ⟨rfl, rfl, rfl⟩
  · exact ⟨rfl, rfl, rfl⟩

theorem exec_readWindow_ready (ready : s.isReady = true) :
    exec (.readWindow p n) s = .next ((s.sendWindow p n).endWindow p n) := if_pos ready

theorem exec_readWindow_starting (starting : s.isReady = false) :
    exec (.readWindow p n) s = .next (s.idleWindow p n) := if_neg (Bool.eq_false_iff.mp starting)

theorem State.idleWindow_link (s : State) (p : PortId) (n : Nat) :
    (s.idleWindow p n).link p = { s.link p with hso := List.replicate n Config.idleWord } := by
  rw [State.idleWindow, State.updLink_link, if_pos rfl]

end Window

end Sys2Proof.Machine

/-- Settles O38: a window sends what stands in the buffer at its start, and then empties the buffer where the whole
response has been sent. -/
theorem readWindowSendsTheResponse : Obligations.ReadWindowSendsTheResponse := by
  intro s p n
  cases ready : s.isReady with
  | false =>
    have link := s.idleWindow_link p n
    have only : s.OnlyPort (s.idleWindow p n) p := (State.OnlyPort.refl s p).updLink _
    refine ⟨_, exec_readWindow_starting ready, rfl, only.others, rfl, rfl, rfl, ?_, ?_, ?_, fun _ => ?_, nofun⟩
    · rw [link]
    · rw [link]
    · rw [link, List.length_replicate]
    · rw [link]
      exact ⟨rfl, rfl, rfl⟩
  | true =>
    have sent := s.sendWindow_link p n
    have only := (s.sendWindow_onlyPort p n).endWindow (n := n)
    obtain ⟨slot, cache, hso⟩ := (s.sendWindow p n).endWindow_link p n
    rw [sent] at slot cache hso
    refine ⟨_, exec_readWindow_ready ready, State.endWindow_hub _ p n, only.others, only.arbiter, only.readiness,
      only.pending, slot, cache, ?_, ?_, ?_⟩
    · rw [hso, s.windowWords_length]
    · rintro (empty | ⟨⟨⟩⟩)
      have none : ((s.sendWindow p n).link p).response = none := by rw [sent]; exact empty
      rw [hso, s.windowWords_idle empty, State.endWindow_none none, sent]
      exact ⟨rfl, rfl, rfl⟩
    · intro x unread _ short
      have unread' : ((s.sendWindow p n).link p).response = some x := by rw [sent]; exact unread
      obtain ⟨code, tag, length, attn, overrun, clear⟩ := x.header_fields (s.attn p) (s.link p).overrun
      refine ⟨_, _, hso.trans (s.windowWords_response unread n), code ▸ x.reply.result.code_mem, tag, ?_, attn, overrun,
        clear, rfl, ?_⟩
      · rw [length]
        exact toNat_ofNat_of_lt (short.trans_lt (by decide))
      · split
        · next whole =>
          rw [State.endWindow_read unread' whole, State.updLink_link, if_pos rfl]
          exact ⟨rfl, rfl⟩
        · next part =>
          rw [State.endWindow_part unread' part, sent]
          exact ⟨unread, rfl⟩
end

section
/-!
The words of section 11.9 give back their fields: the frame header record, the outcome word and the notice word (R181),
the notice and capability records (R182), and the STATUS response (R183).
-/
open Sys2Proof Sys2Proof.Machine
namespace Sys2Proof.Machine

/-! ### The frame header record (R181) -/

/-- Word 0 of the record: effective and base priority, class, state, handle. -/
def headWord (hd : BitVec 16) (c : Context) (e : Prio) : Word :=
  0#4 ++ BitVec.ofFin (w := 2) e ++ BitVec.ofFin (w := 2) c.control.base ++ 0#1 ++
    BitVec.ofFin (w := 3) c.control.cls ++ 0#1 ++ c.place.code ++ hd

/-- Word 1 of the record: length, isolation reason, modified mark, wait marker, resume mode, cause, owner, origin,
affinity. -/
def formWord (c : Context) : Word :=
  0#5 ++ BitVec.ofNat 7 c.len ++ 0#1 ++ c.place.reasonCode ++ c.place.modifiedCode ++
    BitVec.ofBool c.control.waitMarker ++ c.control.resume.code ++ causeCode c.cause ++ c.place.ownerCode ++
    BitVec.ofFin (w := 2) c.origin ++ c.control.affinity

theorem headerRecord_eq (hd : BitVec 16) (c : Context) (e : Prio) :
    headerRecord hd c e = headWord hd c e :: formWord c :: trapWords c.check c.control.trap := rfl

theorem headWord_fields (hd : BitVec 16) (c : Context) (e : Prio) :
    bits (headWord hd c e) 0 16 = hd ∧ bits (headWord hd c e) 16 3 = c.place.code ∧
    bits (headWord hd c e) 20 3 = BitVec.ofFin (w := 3) c.control.cls ∧
    bits (headWord hd c e) 24 2 = BitVec.ofFin (w := 2) c.control.base ∧
    bits (headWord hd c e) 26 2 = BitVec.ofFin (w := 2) e := by
  simp (disch := omega) only [headWord, bits, BitVec.extractLsb'_append_eq_of_add_le,
    BitVec.extractLsb'_append_eq_of_le]
  simp

theorem headWord_unused (hd : BitVec 16) (c : Context) (e : Prio) : headWord hd c e &&& 0xF0880000#32 = 0#32 := by
  rw [show 0xF0880000#32 = 0xF#4 ++ 0#2 ++ 0#2 ++ 1#1 ++ 0#3 ++ 1#1 ++ 0#3 ++ 0#16 from rfl, headWord]
  iterate 7 rw [BitVec.and_append]
  simp only [BitVec.zero_and, BitVec.and_zero]
  rfl

theorem formWord_fields (c : Context) :
    bits (formWord c) 0 4 = c.control.affinity ∧ bits (formWord c) 4 2 = BitVec.ofFin (w := 2) c.origin ∧
    bits (formWord c) 6 3 = c.place.ownerCode ∧ bits (formWord c) 9 3 = causeCode c.cause ∧
    bits (formWord c) 12 2 = c.control.resume.code ∧ bit (formWord c) 14 = c.control.waitMarker ∧
    bits (formWord c) 15 2 = c.place.modifiedCode ∧ bits (formWord c) 17 2 = c.place.reasonCode ∧
    bits (formWord c) 20 7 = BitVec.ofNat 7 c.len := by
  refine ⟨?_, ?_, ?_, ?_, ?_, ?_, ?_, ?_, ?_⟩
  all_goals
    simp (disch := omega) only [formWord, bits, bit, BitVec.extractLsb'_append_eq_of_add_le,
      BitVec.extractLsb'_append_eq_of_le, BitVec.getLsbD_append, if_pos, if_neg]
    simp

theorem formWord_unused (c : Context) : formWord c &&& 0xF8080000#32 = 0#32 := by
  rw [show 0xF8080000#32 =
    0x1F#5 ++ 0#7 ++ 1#1 ++ 0#2 ++ 0#2 ++ 0#1 ++ 0#2 ++ 0#3 ++ 0#3 ++ 0#2 ++ 0#4 from rfl, formWord]
  iterate 10 rw [BitVec.and_append]
  simp only [BitVec.zero_and, BitVec.and_zero]
  rfl

/-- Word 2 of the record with a trapped access: whether it carries a write value, its width and direction, the present
bit, and the image check. -/
def trapWord (check : BitVec 16) (t : Trap) : Word :=
  0#10 ++ t.access.codes.2.1 ++ BitVec.ofNat 3 t.width.bytes ++ t.access.codes.1 ++ 1#1 ++ check

theorem trapWord_fields (check : BitVec 16) (t : Trap) :
    trapWord check t &&& 0xFFC00000#32 = 0#32 ∧ bits (trapWord check t) 0 16 = check ∧
    bit (trapWord check t) 16 = true ∧ bits (trapWord check t) 17 1 = t.access.codes.1 ∧
    bits (trapWord check t) 18 3 = BitVec.ofNat 3 t.width.bytes ∧
    bits (trapWord check t) 21 1 = t.access.codes.2.1 := by
  refine ⟨?_, ?_, ?_, ?_, ?_, ?_⟩
  · rw [show 0xFFC00000#32 = 0x3FF#10 ++ 0#1 ++ 0#3 ++ 0#1 ++ 0#1 ++ 0#16 from rfl, trapWord]
    iterate 5 rw [BitVec.and_append]
    simp only [BitVec.zero_and, BitVec.and_zero]
    rfl
  all_goals
    simp (disch := omega) only [trapWord, bits, bit, BitVec.extractLsb'_append_eq_of_add_le,
      BitVec.extractLsb'_append_eq_of_le, BitVec.getLsbD_append, if_pos, if_neg]
    simp

theorem halfWord_fields (x : BitVec 16) : halfWord x &&& 0xFFC00000#32 = 0#32 ∧ bits (halfWord x) 0 16 = x ∧
    bit (halfWord x) 16 = false ∧ bits (halfWord x) 17 5 = 0#5 := by
  refine ⟨?_, ?_, ?_, ?_⟩
  · rw [show 0xFFC00000#32 = 0xFFC0#16 ++ 0#16 from rfl, halfWord, BitVec.and_append]
    simp only [BitVec.zero_and, BitVec.and_zero]
    rfl
  all_goals
    simp (disch := omega) only [halfWord, bits, bit, BitVec.extractLsb'_append_eq_of_add_le,
      BitVec.extractLsb'_append_eq_of_le, BitVec.getLsbD_append, if_neg]
    simp

theorem bits_halfWord (x : BitVec 16) : bits (halfWord x) 0 16 = x := by
  obtain ⟨-, value, -, -⟩ := halfWord_fields x
  exact value

theorem bit_of_bits {w : Word} {k : Nat} {x : BitVec 1} (e : bits w k 1 = x) : bit w k = x.getLsbD 0 := by
  simp [← e, bit, bits]

/-- Words 2 to 4 of the record give back the image check and the trapped access. -/
theorem trapWords_fields (check : BitVec 16) (trap : Option Trap) : ∃ w2 w3 w4, trapWords check trap = [w2, w3, w4] ∧
    w2 &&& 0xFFC00000#32 = 0#32 ∧ bits w2 0 16 = check ∧ bit w2 16 = trap.isSome ∧
    (trap = none → bits w2 17 5 = 0#5 ∧ w3 = 0#32 ∧ w4 = 0#32) ∧
    ∀ t ∈ trap, w3 = t.address ∧ bits w2 18 3 = BitVec.ofNat 3 t.width.bytes ∧
      (t.access = .read → bit w2 17 = false ∧ bit w2 21 = false ∧ w4 = 0#32) ∧
      ∀ v, t.access = .write v → bit w2 17 = true ∧ bit w2 21 = true ∧ w4 = v := by
  cases trap with
  | none =>
    obtain ⟨unused, value, absent, rest⟩ := halfWord_fields check
    exact ⟨_, _, _, rfl, unused, value, absent, fun _ => ⟨rest, rfl, rfl⟩, nofun⟩
  | some t =>
    obtain ⟨unused, value, present, direction, width, carried⟩ := trapWord_fields check t
    refine ⟨_, _, _, rfl, unused, value, present, nofun, ?_⟩
    rintro t ⟨⟩
    refine ⟨rfl, width, fun read => ?_, fun v write => ?_⟩
    · have codes : t.access.codes = (0#1, 0#1, 0#32) := congrArg Access.codes read
      have direct : bits (trapWord check t) 17 1 = 0#1 := direction.trans (congrArg (·.1) codes)
      have carry : bits (trapWord check t) 21 1 = 0#1 := carried.trans (congrArg (·.2.1) codes)
      exact ⟨bit_of_bits direct, bit_of_bits carry, congrArg (·.2.2) codes⟩
    · have codes : t.access.codes = (1#1, 1#1, v) := congrArg Access.codes write
      have direct : bits (trapWord check t) 17 1 = 1#1 := direction.trans (congrArg (·.1) codes)
      have carry : bits (trapWord check t) 21 1 = 1#1 := carried.trans (congrArg (·.2.1) codes)
      exact ⟨bit_of_bits direct, bit_of_bits carry, congrArg (·.2.2) codes⟩

theorem Place.ownerCode_toNat (x : Place) : x.ownerCode.toNat = match x.owner with
    | some o => 4 + o.val
    | none => 0 := by
  have coded : ∀ o : PortId, (1#1 ++ BitVec.ofFin (w := 2) o).toNat = 4 + o.val := by decide
  unfold Place.ownerCode
  cases x.owner with
  | none => rfl
  | some o => exact coded o

/-! ### Outcome word, notice word and handle (R181, R4) -/

/-- The outcome and its argument as the outcome word codes them. -/
def FrameOutcome.codes : FrameOutcome → BitVec 2 × BitVec 2
  | .queued => (0#2, 0#2)
  | .granted p => (1#2, BitVec.ofFin (w := 2) p)
  | .isolated r => (2#2, r.code)

theorem outcomeWord_eq (hd : BitVec 16) (o : FrameOutcome) :
    outcomeWord hd o = 0#12 ++ o.codes.2 ++ o.codes.1 ++ hd := by cases o <;> rfl

theorem outcomeWord_fields (hd : BitVec 16) (o : FrameOutcome) :
    bits (outcomeWord hd o) 0 16 = hd ∧ bits (outcomeWord hd o) 20 12 = 0#12 ∧
    bits (outcomeWord hd o) 16 2 = o.codes.1 ∧ bits (outcomeWord hd o) 18 2 = o.codes.2 := by
  simp (disch := omega) only [outcomeWord_eq, bits, BitVec.extractLsb'_append_eq_of_add_le,
    BitVec.extractLsb'_append_eq_of_le]
  simp

theorem noticeWord_fields (n : Urgent) : bits (noticeWord n) 0 2 = BitVec.ofFin (w := 2) n.requester ∧
    bits (noticeWord n) 8 3 = BitVec.ofFin (w := 3) n.cls ∧ noticeWord n &&& 0xFFFFF8FC#32 = 0#32 := by
  refine ⟨?_, ?_, ?_⟩
  · simp (disch := omega) only [noticeWord, bits, BitVec.extractLsb'_append_eq_of_add_le]
    simp
  · simp (disch := omega) only [noticeWord, bits, BitVec.extractLsb'_append_eq_of_add_le,
      BitVec.extractLsb'_append_eq_of_le]
    simp
  · rw [show 0xFFFFF8FC#32 = 0x1FFFFF#21 ++ 0#3 ++ 0x3F#6 ++ 0#2 from rfl, noticeWord]
    iterate 3 rw [BitVec.and_append]
    simp only [BitVec.zero_and, BitVec.and_zero]
    rfl

theorem handleOf_toNat (g : BitVec 10) (j : FrameId) : (handleOf g j).toNat = g.toNat * 64 + j.val := by
  have hj := j.isLt
  rw [handleOf, BitVec.toNat_append, BitVec.toNat_ofFin, Nat.shiftLeft_eq, Nat.mul_comm,
    ← Nat.two_pow_add_eq_or_of_lt hj, Nat.mul_comm]
  rfl

end Sys2Proof.Machine

/-- Settles O11: each word is its fields put side by side, and each field stands at its bits. -/
theorem headerRecordGivesBackTheFrame : Obligations.HeaderRecordGivesBackTheFrame := by
  refine ⟨fun hd c e short => ?_, fun hd o => ?_, fun n => ?_, handleOf_toNat⟩
  · obtain ⟨handle, state, cls, base, eff⟩ := headWord_fields hd c e
    obtain ⟨affinity, origin, owner, cause, resume, marker, modified, reason, length⟩ := formWord_fields c
    obtain ⟨w2, w3, w4, words, unused, check, present, absent, trapped⟩ := trapWords_fields c.check c.control.trap
    refine ⟨headWord hd c e, formWord c, w2, w3, w4, by rw [headerRecord_eq, words], headWord_unused hd c e,
      formWord_unused c, unused, handle, ?_, congrArg BitVec.toNat cls, congrArg BitVec.toNat base,
      congrArg BitVec.toNat eff, affinity, congrArg BitVec.toNat origin, ?_, ?_, ?_, marker, ?_, ?_, ?_, check, present,
      absent, fun t ht => ?_⟩
    · rw [state]
      cases c.place <;> rfl
    · rw [owner, Place.ownerCode_toNat]
      cases c.place <;> rfl
    · rw [cause]
      cases c.cause with
      | none => rfl
      | some cause => cases cause <;> rfl
    · rw [resume]
      cases c.control.resume <;> rfl
    · rw [modified]
      cases c.place with
      | held owner modified => cases modified <;> rfl
      | _ => rfl
    · rw [reason]
      cases c.place with
      | isolated reason => cases reason <;> rfl
      | _ => rfl
    · rw [length]
      exact toNat_ofNat_of_lt short
    · obtain ⟨address, width, read, write⟩ := trapped t ht
      refine ⟨address, ?_, read, write⟩
      rw [width]
      cases t.width <;> rfl
  · obtain ⟨handle, rest, outcome, argument⟩ := outcomeWord_fields hd o
    refine ⟨handle, rest, ?_⟩
    cases o with
    | queued => exact ⟨outcome, argument⟩
    | granted q => exact ⟨outcome, congrArg BitVec.toNat argument⟩
    | isolated r => cases r <;> exact ⟨outcome, argument⟩
  · obtain ⟨requester, cls, unused⟩ := noticeWord_fields n
    exact ⟨congrArg BitVec.toNat requester, congrArg BitVec.toNat cls, unused⟩
end

section
/-!
The notice record and the capability record (R182), and the STATUS response (R183) give back their fields.
-/
open Sys2Proof Sys2Proof.Machine
namespace Sys2Proof.Machine

/-! ### Notice records (R182) -/

/-- Word 0 of a notice record gives back kind, port, class and handle. -/
theorem noticeHead_fields (kind : BitVec 8) (port : PortId) (cls : ClassId) (hd : BitVec 16) :
    bits (noticeHead kind port cls hd) 0 8 = kind ∧ (bits (noticeHead kind port cls hd) 8 2).toNat = port.val ∧
    (bits (noticeHead kind port cls hd) 12 3).toNat = cls.val ∧ bits (noticeHead kind port cls hd) 16 16 = hd := by
  simp (disch := omega) only [noticeHead, bits, BitVec.extractLsb'_append_eq_of_add_le,
    BitVec.extractLsb'_append_eq_of_le]
  simp

/-- Word 1 of an ISOLATED notice. -/
theorem isolatedWord_fields (r : IsoReason) :
    bits (0#30 ++ r.code) 2 30 = 0#30 ∧ bits (0#30 ++ r.code) 0 2 = r.code := by
  simp (disch := omega) only [bits, BitVec.extractLsb'_append_eq_of_add_le, BitVec.extractLsb'_append_eq_of_le]
  simp

/-- Word 1 of a FENCE_REPORT: the notices cancelled, whether a claim waited, the frames discarded and reclaimed, and
the reason. -/
def fenceWord (r : FenceReason) (reclaimed discarded : Nat) (waiting : Bool) (cancelled : Nat) : Word :=
  0#10 ++ BitVec.ofNat 2 cancelled ++ 0#3 ++ BitVec.ofBool waiting ++ 0#2 ++ BitVec.ofNat 2 discarded ++
    BitVec.ofNat 4 reclaimed ++ 0#7 ++ r.code

section FenceWord
variable (r : FenceReason) (reclaimed discarded : Nat) (waiting : Bool) (cancelled : Nat)

theorem fenceWord_unused : fenceWord r reclaimed discarded waiting cancelled &&& 0xFFCEC0FE#32 = 0#32 := by
  rw [show 0xFFCEC0FE#32 = 0x3FF#10 ++ 0#2 ++ 7#3 ++ 0#1 ++ 3#2 ++ 0#2 ++ 0#4 ++ 0x7F#7 ++ 0#1 from rfl, fenceWord]
  iterate 8 rw [BitVec.and_append]
  simp only [BitVec.zero_and, BitVec.and_zero]
  rfl

theorem fenceWord_fields :
    bit (fenceWord r reclaimed discarded waiting cancelled) 0 = (r == .brk) ∧
    bit (fenceWord r reclaimed discarded waiting cancelled) 16 = waiting ∧
    bits (fenceWord r reclaimed discarded waiting cancelled) 8 4 = BitVec.ofNat 4 reclaimed ∧
    bits (fenceWord r reclaimed discarded waiting cancelled) 12 2 = BitVec.ofNat 2 discarded ∧
    bits (fenceWord r reclaimed discarded waiting cancelled) 20 2 = BitVec.ofNat 2 cancelled := by
  refine ⟨?_, ?_, ?_, ?_, ?_⟩
  · have code : r.code.getLsbD 0 = (r == .brk) := by cases r <;> rfl
    simp (disch := omega) only [fenceWord, bit, BitVec.getLsbD_append, if_pos, code]
  all_goals
    simp (disch := omega) only [fenceWord, bits, bit, BitVec.extractLsb'_append_eq_of_add_le,
      BitVec.extractLsb'_append_eq_of_le, BitVec.getLsbD_append, if_pos, if_neg]
    simp

end FenceWord

/-! ### The capability record (R182) -/

/-- The word of the capability record with the four port states. -/
theorem statesWord_fields (a b c d : BitVec 2) :
    bits (0#24 ++ d ++ c ++ b ++ a) 0 2 = a ∧ bits (0#24 ++ d ++ c ++ b ++ a) 2 2 = b ∧
    bits (0#24 ++ d ++ c ++ b ++ a) 4 2 = c ∧ bits (0#24 ++ d ++ c ++ b ++ a) 6 2 = d := by
  simp (disch := omega) only [bits, BitVec.extractLsb'_append_eq_of_add_le, BitVec.extractLsb'_append_eq_of_le]
  simp

/-- A word of two halves. -/
theorem halves_fields (upper lower : BitVec 16) :
    bits (upper ++ lower) 0 16 = lower ∧ bits (upper ++ lower) 16 16 = upper := by
  refine ⟨?_, upper_append upper lower⟩
  rw [bits, BitVec.extractLsb'_append_eq_of_add_le (by decide), BitVec.extractLsb'_eq_self]

/-! ### The STATUS response (R183) -/

/-- Word 0 of the STATUS response: the notice count, the state and the epoch. -/
def Port.stateWord (x : Port) : Word := 0#7 ++ BitVec.ofNat 5 x.notices.length ++ 0#2 ++ x.state.code ++ x.epoch

/-- Word 1: the grace and lease periods. -/
def Settings.word (t : Settings) : Word := BitVec.ofNat 16 t.grace ++ BitVec.ofNat 16 t.lease

/-- Word 2: the counts of the filling list, the stack and the hold set, and the subscription mask. -/
def Port.countWord (x : Port) (mask : ClassSet) : Word :=
  0#14 ++ BitVec.ofNat 2 x.filling.length ++ BitVec.ofNat 4 x.stack.length ++ 0#1 ++
    BitVec.ofNat 3 x.hold.length ++ mask

/-- The word of a stack entry. -/
def Hub.stackWord (h : Hub) (e : StackEntry) : Word := 0#15 ++ e.tag.code ++ h.handle e.frame

/-- The word of a filling entry. -/
def Hub.fillWord (h : Hub) (i : FrameId) : Word := 0#9 ++ BitVec.ofNat 7 (h.fillOf i) ++ h.handle i

theorem Hub.statusWords_eq {h : Hub} {p : PortId} {t : Settings} (joined : (h.port p).settings = some t) :
    h.statusWords p = [(h.port p).stateWord, t.word, (h.port p).countWord t.mask, leaseWord (h.port p).state] ++
      claimWords (h.port p).claim ++ [latchWord (h.port p).latch, graceWord (h.port p).latch] ++
      (h.port p).hold.map (fun i => halfWord (h.handle i)) ++ (h.port p).stack.map h.stackWord ++
      (h.port p).filling.map h.fillWord := by
  have shown : (h.port p).shownSettings = t := by rw [Port.shownSettings, joined]; rfl
  rw [Hub.statusWords, shown]
  rfl

theorem Port.stateWord_fields (x : Port) : bits x.stateWord 0 16 = x.epoch ∧ bits x.stateWord 16 2 = x.state.code ∧
    bits x.stateWord 20 5 = BitVec.ofNat 5 x.notices.length := by
  simp (disch := omega) only [Port.stateWord, bits, BitVec.extractLsb'_append_eq_of_add_le,
    BitVec.extractLsb'_append_eq_of_le]
  simp

theorem Port.countWord_fields (x : Port) (mask : ClassSet) : bits (x.countWord mask) 0 8 = mask ∧
    bits (x.countWord mask) 8 3 = BitVec.ofNat 3 x.hold.length ∧
    bits (x.countWord mask) 12 4 = BitVec.ofNat 4 x.stack.length ∧
    bits (x.countWord mask) 16 2 = BitVec.ofNat 2 x.filling.length := by
  simp (disch := omega) only [Port.countWord, bits, BitVec.extractLsb'_append_eq_of_add_le,
    BitVec.extractLsb'_append_eq_of_le]
  simp

/-- A 16-bit value under its present bit: the remaining lease, and the remaining grace. -/
theorem presentWord_fields (x : BitVec 16) : bit (0#15 ++ 1#1 ++ x) 16 = true ∧ bits (0#15 ++ 1#1 ++ x) 0 16 = x := by
  refine ⟨?_, ?_⟩
  all_goals
    simp (disch := omega) only [bits, bit, BitVec.extractLsb'_append_eq_of_add_le, BitVec.getLsbD_append, if_pos,
      if_neg]
    simp

/-- Word 4 of a port whose claim waits. -/
theorem waitWord_fields (m : ClassSet) : bits (0#16 ++ m ++ 0#6 ++ 1#2) 0 2 = 1#2 ∧
    bits (0#16 ++ m ++ 0#6 ++ 1#2) 8 8 = m := by
  simp (disch := omega) only [bits, BitVec.extractLsb'_append_eq_of_add_le, BitVec.extractLsb'_append_eq_of_le]
  simp

theorem servedBits_fields (v : Urgent) : (servedBits (some v)).getLsbD 0 = true ∧
    (servedBits (some v)).extractLsb' 2 2 = BitVec.ofFin (w := 2) v.requester ∧
    (servedBits (some v)).extractLsb' 6 3 = BitVec.ofFin (w := 3) v.cls := by
  refine ⟨?_, ?_, ?_⟩
  all_goals
    simp (disch := omega) only [servedBits, BitVec.extractLsb'_append_eq_of_add_le, BitVec.extractLsb'_append_eq_of_le,
      BitVec.getLsbD_append, if_pos]
    simp

theorem pendingBits_fields (n : Urgent) : (pendingBits (some n)).getLsbD 0 = true ∧
    (pendingBits (some n)).extractLsb' 1 2 = BitVec.ofFin (w := 2) n.requester ∧
    (pendingBits (some n)).extractLsb' 5 3 = BitVec.ofFin (w := 3) n.cls := by
  refine ⟨?_, ?_, ?_⟩
  all_goals
    simp (disch := omega) only [pendingBits, BitVec.extractLsb'_append_eq_of_add_le,
      BitVec.extractLsb'_append_eq_of_le, BitVec.getLsbD_append, if_pos]
    simp

/-- Word 6 with its pending and served parts and the code of its latch. -/
def noticesWord (pending served : Option Urgent) (code : BitVec 2) : Word :=
  0#13 ++ pendingBits pending ++ servedBits served ++ code

theorem noticesWord_fields (pending served : Option Urgent) (code : BitVec 2) :
    bits (noticesWord pending served code) 0 2 = code ∧
    bit (noticesWord pending served code) 2 = (servedBits served).getLsbD 0 ∧
    bits (noticesWord pending served code) 4 2 = (servedBits served).extractLsb' 2 2 ∧
    bits (noticesWord pending served code) 8 3 = (servedBits served).extractLsb' 6 3 ∧
    bit (noticesWord pending served code) 11 = (pendingBits pending).getLsbD 0 ∧
    bits (noticesWord pending served code) 12 2 = (pendingBits pending).extractLsb' 1 2 ∧
    bits (noticesWord pending served code) 16 3 = (pendingBits pending).extractLsb' 5 3 := by
  refine ⟨?_, ?_, ?_, ?_, ?_, ?_, ?_⟩
  all_goals
    simp (disch := omega) only [noticesWord, bits, bit, BitVec.extractLsb'_append_eq_of_add_le,
      BitVec.extractLsb'_append_eq_of_le, BitVec.getLsbD_append, if_pos, if_neg, BitVec.extractLsb'_eq_self]

theorem Hub.stackWord_fields (h : Hub) (e : StackEntry) :
    (bits (h.stackWord e) 0 16, bit (h.stackWord e) 16) = (h.handle e.frame, e.tag == .preempt) := by
  have code : e.tag.code.getLsbD 0 = (e.tag == .preempt) := by cases e.tag <;> rfl
  refine Prod.ext ?_ ?_
  · simp (disch := omega) only [Hub.stackWord, bits, BitVec.extractLsb'_append_eq_of_add_le,
      BitVec.extractLsb'_eq_self]
  · simp (disch := omega) only [Hub.stackWord, bit, BitVec.getLsbD_append, if_pos, if_neg]
    exact code

theorem Hub.fillWord_fields (h : Hub) (i : FrameId) :
    (bits (h.fillWord i) 0 16, bits (h.fillWord i) 16 7) = (h.handle i, BitVec.ofNat 7 (h.fillOf i)) := by
  refine Prod.ext ?_ ?_
  all_goals
    simp (disch := omega) only [Hub.fillWord, bits, BitVec.extractLsb'_append_eq_of_add_le,
      BitVec.extractLsb'_append_eq_of_le]
    simp

/-- Words 4 and 5 give back the waiting-claim record. -/
theorem claimWords_fields (r : ClaimRec) : ∃ w4 w5, claimWords r = [w4, w5] ∧
    (∀ m n, r = .waiting m n → n < 65536 → bits w4 0 2 = 1#2 ∧ bits w4 8 8 = m ∧ (bits w5 0 16).toNat = n) ∧
    (∀ hd, r = .granted hd → w4 = 2#32 ∧ bits w5 0 16 = hd) ∧ (r = .expired → w4 = 3#32 ∧ w5 = 0#32) ∧
    (r = .none → w4 = 0#32 ∧ w5 = 0#32) := by
  cases r with
  | none => exact ⟨_, _, rfl, nofun, nofun, nofun, fun _ => ⟨rfl, rfl⟩⟩
  | waiting m n =>
    obtain ⟨code, mask⟩ := waitWord_fields m
    refine ⟨_, _, rfl, ?_, nofun, nofun, nofun⟩
    rintro m n ⟨⟩ short
    exact ⟨code, mask, (congrArg BitVec.toNat (bits_halfWord _)).trans (toNat_ofNat_of_lt short)⟩
  | granted hd =>
    refine ⟨_, _, rfl, nofun, ?_, nofun, nofun⟩
    rintro hd ⟨⟩
    exact ⟨rfl, bits_halfWord hd⟩
  | expired => exact ⟨_, _, rfl, nofun, nofun, fun _ => ⟨rfl, rfl⟩, nofun⟩

/-- Words 6 and 7 of a PENDING latch. -/
theorem pendingWords_fields (n : Urgent) (g : Option Nat) :
    let w6 := latchWord (.pending n g)
    let w7 := graceWord (.pending n g)
    bits w6 0 2 = 1#2 ∧ bit w6 2 = false ∧ bit w6 11 = true ∧ (bits w6 12 2).toNat = n.requester.val ∧
      (bits w6 16 3).toNat = n.cls.val ∧ bit w7 16 = g.isSome ∧
      ∀ k ∈ g, k < 65536 → (bits w7 0 16).toNat = k := by
  obtain ⟨code, served, -, -, pending, requester, cls⟩ := noticesWord_fields (some n) none 1#2
  obtain ⟨present, requester', cls'⟩ := pendingBits_fields n
  refine ⟨code, served, pending.trans present, congrArg BitVec.toNat (requester.trans requester'),
    congrArg BitVec.toNat (cls.trans cls'), ?_⟩
  cases g with
  | none => exact ⟨(by decide : bit 0#32 16 = false), nofun⟩
  | some k =>
    obtain ⟨runs, value⟩ := presentWord_fields (BitVec.ofNat 16 k)
    refine ⟨runs, ?_⟩
    rintro k ⟨⟩ short
    exact (congrArg BitVec.toNat value).trans (toNat_ofNat_of_lt short)

/-- Word 6 of a SERVING latch. -/
theorem servingWord_fields (v : Urgent) :
    let w6 := latchWord (.serving v)
    bits w6 0 2 = 2#2 ∧ bit w6 2 = true ∧ bit w6 11 = false ∧ (bits w6 4 2).toNat = v.requester.val ∧
      (bits w6 8 3).toNat = v.cls.val := by
  obtain ⟨code, served, requester, cls, pending, -, -⟩ := noticesWord_fields none (some v) 2#2
  obtain ⟨present, requester', cls'⟩ := servedBits_fields v
  exact ⟨code, served.trans present, pending, congrArg BitVec.toNat (requester.trans requester'),
    congrArg BitVec.toNat (cls.trans cls')⟩

/-- Word 6 of a SERVING_PENDING latch. -/
theorem servingPendingWord_fields (v n : Urgent) :
    let w6 := latchWord (.servingPending v n)
    bits w6 0 2 = 3#2 ∧ bit w6 2 = true ∧ bit w6 11 = true ∧ (bits w6 4 2).toNat = v.requester.val ∧
      (bits w6 8 3).toNat = v.cls.val ∧ (bits w6 12 2).toNat = n.requester.val ∧ (bits w6 16 3).toNat = n.cls.val := by
  obtain ⟨code, served, servedBy, servedCls, pending, pendingBy, pendingCls⟩ := noticesWord_fields (some n) (some v) 3#2
  obtain ⟨present, requester, cls⟩ := servedBits_fields v
  obtain ⟨present', requester', cls'⟩ := pendingBits_fields n
  exact ⟨code, served.trans present, pending.trans present', congrArg BitVec.toNat (servedBy.trans requester),
    congrArg BitVec.toNat (servedCls.trans cls), congrArg BitVec.toNat (pendingBy.trans requester'),
    congrArg BitVec.toNat (pendingCls.trans cls')⟩

end Sys2Proof.Machine

/-- Settles O10: each word is its fields put side by side, and each field stands at its bits. -/
theorem statusWordsGiveBackThePort : Obligations.StatusWordsGiveBackThePort := by
  intro h p t x bounded joined lease grace
  obtain ⟨held, stacked, filling, notices⟩ := bounded
  have held : x.hold.length ≤ 4 := (Nat.le_add_right ..).trans held
  obtain ⟨epoch, state, count⟩ := x.stateWord_fields
  obtain ⟨leaseHalf, graceHalf⟩ := halves_fields (BitVec.ofNat 16 t.grace) (BitVec.ofNat 16 t.lease)
  obtain ⟨mask, heldCount, stackCount, fillCount⟩ := x.countWord_fields t.mask
  obtain ⟨w4, w5, claim, waiting, granted, expired, none⟩ := claimWords_fields x.claim
  refine ⟨_, _, _, _, w4, w5, _, _, _, _, _, by rw [Hub.statusWords_eq joined, claim]; rfl, epoch, ?_, ?_, ?_, ?_, mask,
    ?_, ?_, ?_, fun n on short => ?_, fun off => ?_, waiting, granted, expired, none, fun clear => ?_,
    fun n g latch => ?_, fun v latch => ?_, fun v n latch => ?_, ?_, ?_, ?_⟩
  · rw [state]
    cases x.state <;> rfl
  · exact (congrArg BitVec.toNat count).trans (toNat_ofNat_of_lt (notices.trans_lt (by decide)))
  · exact (congrArg BitVec.toNat leaseHalf).trans (toNat_ofNat_of_lt lease)
  · exact (congrArg BitVec.toNat graceHalf).trans (toNat_ofNat_of_lt grace)
  · exact (congrArg BitVec.toNat heldCount).trans (toNat_ofNat_of_lt (held.trans_lt (by decide)))
  · exact (congrArg BitVec.toNat stackCount).trans (toNat_ofNat_of_lt (stacked.trans_lt (by decide)))
  · exact (congrArg BitVec.toNat fillCount).trans (toNat_ofNat_of_lt (filling.trans_lt (by decide)))
  · obtain ⟨present, value⟩ := presentWord_fields (BitVec.ofNat 16 n)
    rw [show (h.port p).state = .online n from on]
    exact ⟨present, (congrArg BitVec.toNat value).trans (toNat_ofNat_of_lt short)⟩
  · show leaseWord x.state = 0
    cases shown : x.state with
    | online n => rw [shown] at off; cases off
    | offline => rfl
    | fenced => rfl
  · rw [show (h.port p).latch = .clear from clear]
    exact ⟨rfl, rfl⟩
  · rw [show (h.port p).latch = .pending n g from latch]
    exact pendingWords_fields n g
  · rw [show (h.port p).latch = .serving v from latch]
    obtain ⟨code, served, pending, requester, cls⟩ := servingWord_fields v
    exact ⟨code, served, pending, requester, cls, rfl⟩
  · rw [show (h.port p).latch = .servingPending v n from latch]
    obtain ⟨code, served, pending, servedBy, servedCls, pendingBy, pendingCls⟩ := servingPendingWord_fields v n
    exact ⟨code, served, pending, servedBy, servedCls, pendingBy, pendingCls, rfl⟩
  · rw [List.map_map]
    exact List.map_congr_left fun i _ => bits_halfWord (h.handle i)
  · rw [List.map_map]
    exact List.map_congr_left fun e _ => h.stackWord_fields e
  · rw [List.map_map]
    exact List.map_congr_left fun i _ => h.fillWord_fields i

/-- Settles O32: each word is its fields put side by side, and each field stands at its bits. -/
theorem noticeAndCapabilityWordsGiveBackTheirFields : Obligations.NoticeAndCapabilityWordsGiveBackTheirFields := by
  refine ⟨fun n => ?_, fun h => ?_⟩
  · cases n with
    | isolated hd r =>
      obtain ⟨rest, code⟩ := isolatedWord_fields r
      refine ⟨_, _, rfl, noticeHead_fields 7 0 0 hd, rest, ?_⟩
      rw [code]
      cases r <;> rfl
    | fenceReport r reclaimed discarded waiting cancelled =>
      obtain ⟨reason, waited, some, none, ended⟩ := fenceWord_fields r reclaimed discarded waiting cancelled
      refine ⟨_, fenceWord r reclaimed discarded waiting cancelled, rfl, noticeHead_fields 9 0 0 0, reason, waited,
        fenceWord_unused .., fun few => ?_, fun few => ?_, fun few => ?_⟩
      · exact (congrArg BitVec.toNat some).trans (toNat_ofNat_of_lt few)
      · exact (congrArg BitVec.toNat none).trans (toNat_ofNat_of_lt few)
      · exact (congrArg BitVec.toNat ended).trans (toNat_ofNat_of_lt few)
    | _ => exact ⟨_, _, rfl, noticeHead_fields .., rfl⟩
  · obtain ⟨s0, s1, s2, s3⟩ := statesWord_fields (h.port 0).state.code (h.port 1).state.code (h.port 2).state.code
      (h.port 3).state.code
    obtain ⟨e0, e1⟩ := halves_fields (h.port 1).epoch (h.port 0).epoch
    obtain ⟨e2, e3⟩ := halves_fields (h.port 3).epoch (h.port 2).epoch
    refine ⟨_, _, _, _, _, rfl, by decide, by decide, by decide, by decide, by decide, by decide, fun p => ?_, e0, e1,
      e2, e3⟩
    have coded : bits (0#24 ++ (h.port 3).state.code ++ (h.port 2).state.code ++ (h.port 1).state.code ++
        (h.port 0).state.code) (2 * p.val) 2 = (h.port p).state.code := by
      match p with
      | 0 => exact s0
      | 1 => exact s1
      | 2 => exact s2
      | 3 => exact s3
    refine coded.trans ?_
    cases (h.port p).state <;> rfl
end

section
/-!
The form of a payload (R178, R180): a payload that breaks the form of its request is taken by none of the readers, and
its request is refused BAD_VALUE.
-/
open Sys2Proof Sys2Proof.Machine
namespace Sys2Proof.Machine

/-! ### Payloads that break their form -/

theorem clearIn_eq_false_iff (w mask : Word) : clearIn w mask = false ↔ w &&& mask ≠ 0 := beq_eq_false_iff_ne

theorem clearIn_zero_ne_false (w : Word) : clearIn w 0 ≠ false := by
  rw [Ne, clearIn_eq_false_iff, not_not]
  exact BitVec.and_zero

section Misformed
variable {k : ReqKind} {ws : List Word}

/-- A payload within its range of lengths that breaks its form has an unused bit set, where its request is neither a
PARK_OPEN nor a REPAIR. -/
theorem ReqKind.Misformed.unused (bad : k.Misformed ws) (park : k ≠ .parkOpen) (repair : k ≠ .repair)
    (least : k.payloadRange.1 ≤ ws.length) (most : ws.length ≤ k.payloadRange.2) :
    ∃ j w, ws[j]? = some w ∧ clearIn w (k.unusedAt ws j) = false := by
  rcases bad with short | long | ⟨j, w, at_j, set⟩ | ⟨isPark, -⟩ | ⟨isRepair, -⟩
  · exact absurd least (not_le.mpr short)
  · exact absurd most (not_le.mpr long)
  · exact ⟨j, w, at_j, (clearIn_eq_false_iff _ _).mpr set⟩
  · exact absurd isPark park
  · exact absurd isRepair repair

theorem ReqKind.unusedAt_zero (k : ReqKind) (ws : List Word) : k.unusedAt ws 0 = k.unusedBits := if_pos rfl

/-- The requests with unused bits in their first word only. -/
def ReqKind.plain (k : ReqKind) : Bool := k != .join && k != .parkOpen && k != .edit && k != .repair

theorem ReqKind.unusedAt_succ (plain : k.plain = true) (ws : List Word) (j : Nat) : k.unusedAt ws (j + 1) = 0 := by
  cases k <;> first | rfl | cases plain

theorem ReqKind.plain_ne (plain : k.plain = true) : k ≠ .parkOpen ∧ k ≠ .repair := by
  constructor <;> (rintro rfl; cases plain)

/-- In a plain request it is the first word that has an unused bit set. -/
theorem ReqKind.Misformed.first (plain : k.plain = true) {w : Word} {rest : List Word}
    (bad : k.Misformed (w :: rest)) (least : k.payloadRange.1 ≤ rest.length + 1)
    (most : rest.length + 1 ≤ k.payloadRange.2) : clearIn w k.unusedBits = false := by
  obtain ⟨park, repair⟩ := ReqKind.plain_ne plain
  obtain ⟨j, v, at_j, set⟩ := bad.unused park repair least most
  cases j with
  | zero =>
    rw [ReqKind.unusedAt_zero] at set
    exact Option.some.inj at_j ▸ set
  | succ j =>
    rw [ReqKind.unusedAt_succ plain] at set
    exact absurd set (clearIn_zero_ne_false v)

end Misformed

/-! ### The readers (R180) -/

section Readers
variable {k : ReqKind} {w : Word} {ws rest : List Word}

theorem readNothing_misformed (plain : k.plain = true) (range : k.payloadRange = (0, 0)) (bad : k.Misformed ws) :
    readNothing ws = none := by
  cases ws with
  | cons w rest => rfl
  | nil =>
    obtain ⟨park, repair⟩ := ReqKind.plain_ne plain
    obtain ⟨j, v, at_j, -⟩ := bad.unused park repair (by rw [range]; exact le_rfl) (by rw [range]; exact le_rfl)
    cases at_j

/-- A reader of one word that tests the unused bits of its request takes no payload that breaks the form. -/
theorem reader_misformed {α : Type} {read : List Word → Option α} (plain : k.plain = true)
    (range : k.payloadRange = (1, 1)) (empty : read [] = none) (longer : ∀ w v rest, read (w :: v :: rest) = none)
    (one : ∀ w, clearIn w k.unusedBits = false → read [w] = none) (bad : k.Misformed ws) : read ws = none := by
  match ws, bad with
  | [], _ => exact empty
  | [w], bad => exact one w (bad.first plain (by rw [range]; exact le_rfl) (by rw [range]; exact le_rfl))
  | w :: v :: rest, _ => exact longer w v rest

theorem if_clearIn_false {α : Type} {mask : Word} {x : Option α} (set : clearIn w mask = false) :
    (if clearIn w mask then x else none) = none := if_neg (Bool.eq_false_iff.mp set)

theorem readMask_misformed (plain : k.plain = true) (range : k.payloadRange = (1, 1))
    (mask : k.unusedBits = 0xFFFFFF00#32) (bad : k.Misformed ws) : readMask ws = none :=
  reader_misformed plain range rfl (fun _ _ _ => rfl) (fun _ set => if_clearIn_false (mask ▸ set)) bad

theorem readThree_misformed (plain : k.plain = true) (range : k.payloadRange = (1, 1))
    (mask : k.unusedBits = 0xFFFFFFF8#32) (bad : k.Misformed ws) : readThree ws = none :=
  reader_misformed plain range rfl (fun _ _ _ => rfl) (fun _ set => if_clearIn_false (mask ▸ set)) bad

theorem readMaskTimeout_misformed (bad : ReqKind.Misformed .claimWait ws) : readMaskTimeout ws = none :=
  reader_misformed (k := .claimWait) rfl rfl rfl (fun _ _ _ => rfl) (fun _ set => if_clearIn_false set) bad

theorem readPreempt_misformed (bad : ReqKind.Misformed .preempt ws) : readPreempt ws = none :=
  reader_misformed (k := .preempt) rfl rfl rfl (fun _ _ _ => rfl) (fun _ set => if_clearIn_false set) bad

theorem readClassSet_misformed (bad : ReqKind.Misformed .classSet ws) : readClassSet ws = none :=
  reader_misformed (k := .classSet) rfl rfl rfl (fun _ _ _ => rfl) (fun _ set => if_clearIn_false set) bad

theorem readJoin_misformed (bad : ReqKind.Misformed .join ws) : readJoin ws = none := by
  match ws, bad with
  | [], _ => rfl
  | [_], _ => rfl
  | _ :: _ :: _ :: _, _ => rfl
  | [w1, w2], bad =>
    obtain ⟨j, v, at_j, set⟩ := bad.unused nofun nofun le_rfl le_rfl
    match j, at_j, set with
    | 0, _, set => exact absurd set (clearIn_zero_ne_false _)
    | 1, rfl, set => exact if_clearIn_false set
    | _ + 2, at_j, _ => cases at_j

/-- A reader of a handle word alone. -/
theorem handleReader_misformed {α : Type} {read : Word → List Word → Option α} (plain : k.plain = true)
    (range : k.payloadRange = (1, 1)) (longer : ∀ w v rest, read w (v :: rest) = none)
    (one : ∀ w, clearIn w k.unusedBits = false → read w [] = none) (bad : k.Misformed (w :: rest)) :
    read w rest = none := by
  cases rest with
  | cons v rest => exact longer w v rest
  | nil => exact one w (bad.first plain (by rw [range]; exact le_rfl) (by rw [range]; exact le_rfl))

theorem readHandleOnly_misformed (plain : k.plain = true) (range : k.payloadRange = (1, 1))
    (mask : k.unusedBits = 0xFFFF0000#32) (bad : k.Misformed (w :: rest)) : readHandleOnly w rest = none := by
  refine handleReader_misformed plain range (fun w v rest => ?_) (fun w set => ?_) bad
  · exact if_neg (by simp)
  · rw [mask] at set
    exact if_neg (by simp [set])

theorem readRange_misformed (plain : k.plain = true) (range : k.payloadRange = (1, 1))
    (mask : k.unusedBits = 0xF8000000#32) (bad : k.Misformed (w :: rest)) : readRange w rest = none := by
  refine handleReader_misformed plain range (fun w v rest => ?_) (fun w set => ?_) bad
  · exact if_neg (by simp)
  · rw [mask] at set
    exact if_neg (by simp [set])

theorem readRepark_misformed (bad : ReqKind.Misformed .repark (w :: rest)) : readRepark w rest = none :=
  handleReader_misformed (k := .repark) rfl rfl (fun _ _ _ => rfl)
    (fun w set => absurd set (clearIn_zero_ne_false w)) bad

theorem readWrite_misformed (plain : k.plain = true) (range : k.payloadRange = (2, 17))
    (mask : k.unusedBits = 0xFFC00000#32) (bad : k.Misformed (w :: rest)) : readWrite w rest = none := by
  by_cases len : 1 ≤ rest.length ∧ rest.length ≤ Config.moveMax
  · obtain ⟨least, most⟩ := len
    have set := bad.first plain (by rw [range]; exact Nat.succ_le_succ least)
      (by rw [range]; exact Nat.succ_le_succ most)
    rw [mask] at set
    exact if_neg (by simp [set])
  · exact if_neg fun both => len (of_decide_eq_true (Bool.and_eq_true_iff.mp both).2)

theorem readChange_misformed {f : Word} (set : clearIn f 0xFFFFF0F0#32 = false) : readChange f = none :=
  if_clearIn_false set

theorem readEdit_misformed (bad : ReqKind.Misformed .edit (w :: rest)) : readEdit w rest = none := by
  match rest, bad with
  | [], _ => rfl
  | _ :: _ :: _, _ => rfl
  | [f], bad =>
    obtain ⟨j, v, at_j, set⟩ := bad.unused nofun nofun le_rfl le_rfl
    match j, at_j, set with
    | 0, rfl, set => exact if_clearIn_false set
    | 1, rfl, set =>
      rw [readEdit, readChange_misformed set]
      exact ite_self _
    | _ + 2, at_j, _ => cases at_j

/-! ### PARK_OPEN and REPAIR announce their lengths (R180) -/

/-- The words after word 2 of a PARK_OPEN are as many as its present bit announces. -/
theorem parkTrap_eq_none (bad : bit w 17 = false ∧ rest.length ≠ 0 ∨
    bit w 17 = true ∧ rest.length ≠ 1 ∧ rest.length ≠ 2) : parkTrap w rest = none := by
  match rest, bad with
  | [], .inr ⟨present, _⟩ => exact if_pos present
  | [], .inl ⟨_, more⟩ => exact absurd rfl more
  | [a], .inl ⟨absent, _⟩ => exact if_neg (Bool.eq_false_iff.mp absent)
  | [a], .inr ⟨_, one, _⟩ => exact absurd rfl one
  | [a, v], .inl ⟨absent, _⟩ => exact if_neg (Bool.eq_false_iff.mp absent)
  | [a, v], .inr ⟨_, _, two⟩ => exact absurd rfl two
  | _ :: _ :: _ :: _, _ => rfl

theorem readParkOpen_misformed (bad : ReqKind.Misformed .parkOpen ws) : readParkOpen ws = none := by
  match ws, bad with
  | [], _ => rfl
  | [_], _ => rfl
  | w1 :: w2 :: rest, bad =>
    have untrapped : parkTrap w1 rest = none → readParkOpen (w1 :: w2 :: rest) = none := fun untaken => by
      rw [readParkOpen, untaken]
      exact ite_self _
    rcases bad with short | long | ⟨j, w, at_j, set⟩ | ⟨-, w, ⟨⟩, announced⟩ | ⟨⟨⟩, -⟩
    · exact absurd short (by simp [ReqKind.payloadRange])
    · have long : 4 < rest.length + 2 := long
      refine untrapped (parkTrap_eq_none ?_)
      cases bit w1 17 with
      | false => exact .inl ⟨rfl, by omega⟩
      | true => exact .inr ⟨rfl, by omega, by omega⟩
    · rw [← clearIn_eq_false_iff] at set
      match j, at_j, set with
      | 0, rfl, set => exact if_neg (by simp [show clearIn w1 0x8088C0C8#32 = false from set])
      | 1, rfl, set => exact if_neg (by simp [show clearIn w2 0xFFFF0000#32 = false from set])
      | _ + 2, _, set => rw [ReqKind.unusedAt, clearIn] at set; simp at set
    · refine untrapped (parkTrap_eq_none ?_)
      rcases announced with ⟨absent, two⟩ | ⟨present, three, four⟩
      · exact .inl ⟨absent, fun empty => two (congrArg (· + 2) empty)⟩
      · exact .inr ⟨present, fun one => three (congrArg (· + 2) one), fun two => four (congrArg (· + 2) two)⟩

/-- A new check stands exactly where it is announced, with no unused bit set. -/
theorem readRepairCheck_takes {present : Bool} {l : List Word} {check : Option (BitVec 16)}
    (taken : readRepairCheck present l = some check) :
    l.length = present.toNat ∧ ∀ v ∈ l, clearIn v 0xFFFF0000#32 = true := by
  match l, present with
  | [], false => exact ⟨rfl, nofun⟩
  | [], true => cases taken
  | [c], false => cases taken
  | [c], true =>
    refine ⟨rfl, fun v member => ?_⟩
    obtain rfl := List.mem_singleton.mp member
    by_contra set
    exact absurd taken (by simp [readRepairCheck, set])
  | _ :: _ :: _, _ => cases taken

/-- Field changes that are taken have no unused bit set. -/
theorem mapM_readChange_clear {l : List Word} {changes : List FieldChange}
    (taken : l.mapM readChange = some changes) : ∀ v ∈ l, clearIn v 0xFFFFF0F0#32 = true := by
  induction l generalizing changes with
  | nil => exact nofun
  | cons f l ih =>
    simp only [List.mapM_cons, Option.bind_eq_bind, Option.bind_eq_some_iff] at taken
    obtain ⟨change, first, others, later, -⟩ := taken
    refine List.forall_mem_cons.mpr ⟨?_, ih later⟩
    by_contra set
    rw [readChange_misformed (Bool.eq_false_iff.mpr set)] at first
    cases first

/-- A REPAIR that is taken has as many words as its first word announces, and no unused bit set in any. -/
theorem readRepair_takes {args : RepairArgs} (taken : readRepair w rest = some args) :
    clearIn w 0xFFF80000#32 = true ∧ rest.length = (bits w 16 2).toNat + (bit w 18).toNat ∧
      (∀ v ∈ rest.take (bits w 16 2).toNat, clearIn v 0xFFFFF0F0#32 = true) ∧
      ∀ v ∈ rest.drop (bits w 16 2).toNat, clearIn v 0xFFFF0000#32 = true := by
  simp only [readRepair] at taken
  split at taken
  · next guards =>
    obtain ⟨clear, enough⟩ := Bool.and_eq_true_iff.mp guards
    have enough := of_decide_eq_true enough
    split at taken
    · next changes check =>
      obtain ⟨count, checkClear⟩ := readRepairCheck_takes check
      rw [List.length_drop] at count
      exact ⟨clear, by omega, mapM_readChange_clear changes, checkClear⟩
    · cases taken
  · cases taken

theorem readRepair_misformed (bad : ReqKind.Misformed .repair (w :: rest)) : readRepair w rest = none := by
  by_contra accepted
  obtain ⟨args, taken⟩ := Option.ne_none_iff_exists'.mp accepted
  obtain ⟨clear, count, changes, check⟩ := readRepair_takes taken
  have few : (bits w 16 2).toNat < 4 := (bits w 16 2).isLt
  have one : (bit w 18).toNat ≤ 1 := Bool.toNat_le _
  rcases bad with short | long | ⟨j, v, at_j, set⟩ | ⟨isPark, -⟩ | ⟨-, u, first, announced⟩
  · exact absurd short (by simp [ReqKind.payloadRange])
  · have long : 5 < rest.length + 1 := long
    omega
  · rw [← clearIn_eq_false_iff] at set
    cases j with
    | zero =>
      obtain rfl := Option.some.inj at_j
      exact Bool.noConfusion (set.symm.trans clear)
    | succ j =>
      have at_j : rest[j]? = some v := at_j
      by_cases change : j + 1 ≤ (bits w 16 2).toNat
      · have member : v ∈ rest.take (bits w 16 2).toNat :=
          List.mem_of_getElem? ((List.getElem?_take_of_lt change).trans at_j)
        have mask : ReqKind.unusedAt .repair (w :: rest) (j + 1) = 0xFFFFF0F0#32 := if_pos change
        rw [mask, changes v member] at set
        cases set
      · have member : v ∈ rest.drop (bits w 16 2).toNat := by
          refine List.mem_of_getElem? (i := j - (bits w 16 2).toNat) ?_
          rw [List.getElem?_drop, show (bits w 16 2).toNat + (j - (bits w 16 2).toNat) = j by omega, at_j]
        have mask : ReqKind.unusedAt .repair (w :: rest) (j + 1) = 0xFFFF0000#32 := if_neg change
        rw [mask, check v member] at set
        cases set
  · cases isPark
  · cases first
    exact announced (by rw [List.length_cons, count]; omega)

end Readers

/-! ### Requests whose payload is not taken -/

section Refusals
variable {i : Instr} {s : State} {p : PortId} {r : Request} {α : Type}

/-- A request without a handle whose payload is not taken is refused BAD_VALUE. -/
theorem refused_form {args : Option α} {body : α → Hub × Reply} (hr : requestOf i = some (p, r))
    (admitted : Admitted i s) (past : sessionRefusal r.kind (s.hub.port p).state = none)
    (hb : bodyOf s.hub i = s.hub.session r.kind p (s.hub.form args body)) (untaken : args = none) :
    Refused i s .badValue :=
  refused_body hr admitted (by rw [hb, Hub.session_passes past, untaken, Hub.form])

/-- A request whose handle names a frame to it, but whose payload is not taken, is refused BAD_VALUE. -/
theorem refused_handled {accepts : Place → Bool} {args : Word → List Word → Option α}
    {body : FrameId → Context → α → Hub × Reply} (hr : requestOf i = some (p, r)) (admitted : Admitted i s)
    (past : sessionRefusal r.kind (s.hub.port p).state = none)
    (hb : bodyOf s.hub i = s.hub.session r.kind p (s.hub.handled accepts r.payload args body))
    (named : ∀ w ∈ r.payload.head?, (s.hub.find accepts (wordHandle w)).isSome = true)
    (bad : r.kind.Misformed r.payload)
    (untaken : ∀ {w rest}, r.kind.Misformed (w :: rest) → args w rest = none) : Refused i s .badValue := by
  rw [Hub.session_passes past] at hb
  refine refused_body hr admitted (hb.trans ?_)
  cases payload : r.payload with
  | nil => rfl
  | cons w rest =>
    obtain ⟨⟨j, c⟩, found⟩ := Option.isSome_iff_exists.mp (named w (by rw [payload]; rfl))
    rw [Hub.handled, found, untaken (payload ▸ bad)]
    rfl

end Refusals

end Sys2Proof.Machine

/-- Settles O5: each of the 33 requests reads its payload by a reader that takes no payload that breaks the form. -/
theorem malformedPayloadIsBadValue : Obligations.MalformedPayloadIsBadValue := by
  rintro i s p ⟨kind, tag, payload⟩ hr admitted past named bad
  dsimp only at past named bad
  cases i <;> simp only [requestOf, Option.some.injEq, Prod.mk.injEq, Request.mk.injEq, reduceCtorEq] at hr
  all_goals obtain ⟨rfl, rfl, rfl, rfl⟩ := hr
  case join => exact refused_form rfl admitted past rfl (readJoin_misformed bad)
  case leave | renew | status | hubInfo | claimResult | claimCancel | resumeTop | takePreempt | endPreempt
      | isolationList =>
    exact refused_form rfl admitted past rfl (readNothing_misformed rfl rfl bad)
  case subscribe | claim =>
    exact refused_form rfl admitted past rfl (readMask_misformed rfl rfl rfl bad)
  case claimWait => exact refused_form rfl admitted past rfl (readMaskTimeout_misformed bad)
  case preempt => exact refused_form rfl admitted past rfl (readPreempt_misformed bad)
  case classSet => exact refused_form rfl admitted past rfl (readClassSet_misformed bad)
  case noticeRead | classGet =>
    exact refused_form rfl admitted past rfl (readThree_misformed rfl rfl rfl bad)
  case parkOpen => exact refused_form rfl admitted past rfl (readParkOpen_misformed bad)
  case parkWrite | writeImage | isolationWrite =>
    exact refused_handled rfl admitted past rfl (named _ rfl) bad (readWrite_misformed rfl rfl rfl)
  case parkClose | parkAbort | returnFrame | retire | suspend | discard =>
    exact refused_handled rfl admitted past rfl (named _ rfl) bad (readHandleOnly_misformed rfl rfl rfl)
  case readImage | inspect =>
    exact refused_handled rfl admitted past rfl (named _ rfl) bad (readRange_misformed rfl rfl rfl)
  case edit => exact refused_handled rfl admitted past rfl (named _ rfl) bad readEdit_misformed
  case repark => exact refused_handled rfl admitted past rfl (named _ rfl) bad readRepark_misformed
  case repair => exact refused_handled rfl admitted past rfl (named _ rfl) bad readRepair_misformed
end

section
/-!
The tick takes first what fell due at an earlier tick (notes/assumptions/3.md): each of the commands that take it ends
what it is for, and none of them lets anything else fall due, so that nothing is due after all of them.
-/
open Sys2Proof Sys2Proof.Machine
namespace Sys2Proof.Machine

/-! ### Nothing new falls due -/

/-- What is due at a port afterwards was due at it before. -/
structure Port.Settles (x y : Port) : Prop where
  lease : y.leaseDue = true → x.leaseDue = true
  wait  : y.waitDue = true → x.waitDue = true
  grace : ∀ n, y.latch = .pending n (some 0) → x.latch = .pending n (some 0)

/-- What is due in a hub afterwards was due in it before: at each port, and among the queued frames, of which each that
has waited in its band stood there before, in the same queues. -/
structure Hub.Settles (h g : Hub) : Prop where
  ports  : ∀ q, (h.port q).Settles (g.port q)
  aging  : ∀ k, (g.cls k).aging = (h.cls k).aging
  waited : ∀ j c b w, g.ctx j = some c → c.place = .queued b w → w ≠ 0 →
    h.ctx j = some c ∧ ∀ k, j ∈ (g.cls k).queue → j ∈ (h.cls k).queue

theorem Port.Settles.refl (x : Port) : x.Settles x := ⟨id, id, fun _ => id⟩

theorem Port.Settles.trans {x y z : Port} (a : x.Settles y) (b : y.Settles z) : x.Settles z :=
  ⟨a.lease ∘ b.lease, a.wait ∘ b.wait, fun n => a.grace n ∘ b.grace n⟩

/-- Notices make nothing due. -/
theorem Port.told_settles (x : Port) (ns : List Notice) : x.Settles (x.told ns) := by
  obtain ⟨state, -, claim, -, -, -, latch, -⟩ := x.told_rest ns
  refine ⟨?_, ?_, fun n => ?_⟩
  · rw [Port.leaseDue, state]; exact id
  · rw [Port.waitDue, claim]; exact id
  · rw [latch]; exact id

section Settles
variable {h g : Hub}

theorem Hub.Settles.refl (h : Hub) : h.Settles h :=
  ⟨fun _ => .refl _, fun _ => rfl, fun _ _ _ _ used _ _ => ⟨used, fun _ => id⟩⟩

theorem Hub.Settles.trans {k : Hub} (a : h.Settles g) (b : g.Settles k) : h.Settles k where
  ports q := (a.ports q).trans (b.ports q)
  aging l := (b.aging l).trans (a.aging l)
  waited j c e w used place older := by
    obtain ⟨usedThen, queuedThen⟩ := b.waited j c e w used place older
    obtain ⟨usedFirst, queuedFirst⟩ := a.waited j c e w usedThen place older
    exact ⟨usedFirst, fun l => queuedFirst l ∘ queuedThen l⟩

theorem Hub.Settles.foldl {α : Type} {f : Hub → α → Hub} (one : ∀ (g : Hub) a, g.Settles (f g a)) (l : List α)
    (h : Hub) : h.Settles (l.foldl f h) := by
  induction l generalizing h with
  | nil => exact .refl h
  | cons a l ih => exact (one h a).trans (ih _)

/-- The frames and queues stand as before. -/
theorem Hub.Settles.of_ports (ctx : ∀ j, g.ctx j = h.ctx j) (classes : ∀ k, g.cls k = h.cls k)
    (ports : ∀ q, (h.port q).Settles (g.port q)) : h.Settles g where
  ports := ports
  aging k := by rw [classes]
  waited j c b w used _ _ := ⟨(ctx j).symm.trans used, fun k => by rw [classes]; exact id⟩

/-- The ports stand as before, and one frame is newly placed, where it has not waited. -/
theorem Hub.Settles.of_placed {i : FrameId} {d : Context} (ports : ∀ q, (h.port q).Settles (g.port q))
    (ctx : ∀ j, g.ctx j = if j = i then some d else h.ctx j) (fresh : ∀ b w, d.place = .queued b w → w = 0)
    (aging : ∀ k, (g.cls k).aging = (h.cls k).aging)
    (queues : ∀ k j, j ≠ i → j ∈ (g.cls k).queue → j ∈ (h.cls k).queue) : h.Settles g where
  ports := ports
  aging := aging
  waited j c b w used place older := by
    rw [ctx] at used
    split at used
    · cases used
      exact absurd (fresh b w place) older
    · next other => exact ⟨used, fun k => queues k j other⟩

theorem Hub.updPort_settles {p : PortId} {f : Port → Port} (one : (h.port p).Settles (f (h.port p))) :
    h.Settles (h.updPort p f) := .of_ports (fun _ => rfl) (fun _ => rfl) fun q => by
  rw [Hub.updPort_port]
  split
  · next e => exact e ▸ one
  · exact .refl _

theorem Hub.post_settles (h : Hub) (p : PortId) (n : Notice) : h.Settles (h.post p n) := by
  obtain ⟨-, -, classes, ctx, -⟩ := h.post_rest p n
  refine .of_ports ctx classes fun q => ?_
  rw [Hub.post_port]
  split
  · next e => exact e ▸ Port.told_settles ..
  · exact .refl _

/-- A wait that ends is not due. -/
theorem Hub.endWait_settles (h : Hub) (p : PortId) {r : ClaimRec} (ended : r.isWaiting = false) :
    h.Settles (h.endWait p r) := .of_ports (fun _ => rfl) (fun _ => rfl) fun q => by
  rw [Hub.endWait_port]
  split
  · next e =>
    subst e
    refine ⟨id, fun due => ?_, fun _ => id⟩
    cases r with
    | waiting m n => cases ended
    | none => cases due
    | granted hd => cases due
    | expired => cases due
  · exact .refl _

theorem Hub.lapse_settles (h : Hub) (p : PortId) (n : Urgent) : h.Settles (h.lapse p n) :=
  (Hub.updPort_settles (f := fun x => { x with latch := .clear }) ⟨id, id, nofun⟩).trans
    ((Hub.post_settles ..).trans (Hub.post_settles ..))

/-! ### The fence -/

theorem Hub.freeAll_aging (h : Hub) (l : List FrameId) (k : ClassId) :
    ((h.freeAll l).cls k).aging = (h.cls k).aging := by
  induction l generalizing h with
  | nil => rfl
  | cons i l ih =>
    unfold Hub.freeAll
    split
    · rw [ih, Hub.freeFrame_cls]
      split <;> rfl
    · exact ih h

theorem Hub.freeAll_settles (h : Hub) (l : List FrameId) : h.Settles (h.freeAll l) := by
  obtain ⟨ports, queues, -⟩ := h.freeAll_rest l
  refine ⟨fun q => ports q ▸ .refl _, h.freeAll_aging l, fun j c b w used _ _ => ?_⟩
  rw [Hub.freeAll_ctx] at used
  split at used
  · cases used
  · exact ⟨used, fun k => (queues k).symm ▸ id⟩

/-- An insertion brings no other frame into a queue (R25). -/
theorem Hub.mem_queue_of_enqueue {i j : FrameId} {c : Context} {cause : Cause} {k : ClassId} (other : j ≠ i)
    (queued : j ∈ ((h.enqueue i c cause).cls k).queue) : j ∈ (h.cls k).queue := by
  have inserted : ∀ g : Hub, g.cls k = (h.updClass c.control.cls fun x => { x with queue :=
      (if cause.entersAtHead then insertHead h.effOf c.control.base [i] (h.cls c.control.cls).queue
        else insertTail h.effOf c.control.base [i] (h.cls c.control.cls).queue) }).cls k →
      j ∈ (g.cls k).queue → j ∈ (h.cls k).queue := fun g same queued => by
    rw [same, Hub.updClass_cls] at queued
    split at queued
    · next e => exact e ▸ List.mem_of_ne_of_mem other ((insert_perm ..).mem_iff.mp queued)
    · exact queued
  refine inserted _ ?_ queued
  simp only [Hub.enqueue]
  split
  · simp only [Hub.postReady_rest]
    rfl
  · rfl

theorem Hub.enqueue_settles (h : Hub) (i : FrameId) (c : Context) (cause : Cause) : h.Settles (h.enqueue i c cause) := by
  refine .of_placed (i := i) (d := { c with cause := some cause, place := .queued c.control.base 0 })
    (fun q => ?_) (fun j => ?_) (fun b w place => ?_) (fun k => ?_) (fun k j other queued => ?_)
  · obtain ⟨ns, told⟩ := Hub.enqueue_port (h := h) (i := i) (c := c) cause q
    exact told ▸ Port.told_settles ..
  · rw [Hub.ctx, Hub.enqueue_frame]
    split <;> rfl
  · cases place
    rfl
  · obtain ⟨queue, classes, -⟩ := Hub.enqueue_cls (h := h) (i := i) (c := c) cause k
    rw [classes]
  · exact Hub.mem_queue_of_enqueue other queued

theorem Hub.grant_settles (h : Hub) (i : FrameId) (c : Context) (q : PortId) : h.Settles (h.grant i c q) := by
  obtain ⟨frames, ports, classes, -⟩ := h.grant_parts i c q
  refine .of_placed (i := i) (d := { c with place := .held q false }) (fun r => ?_) (fun j => ?_) nofun
    (fun k => by rw [classes]) (fun k j _ => by rw [classes]; exact id)
  · rw [ports]
    split
    · next e => exact e ▸ ⟨id, nofun, fun _ => id⟩
    · exact .refl _
  · rw [Hub.ctx, frames]
    split <;> rfl

theorem Hub.makeAvailable_settles (h : Hub) (i : FrameId) (c : Context) (cause : Cause) (passed : Option PortId) :
    h.Settles (h.makeAvailable i c cause passed).1 := by
  unfold Hub.makeAvailable
  split
  · exact h.grant_settles ..
  · exact h.enqueue_settles ..

theorem Hub.reclaim_settles (h : Hub) (p : PortId) (i : FrameId) : h.Settles (h.reclaim p i) := by
  unfold Hub.reclaim
  split
  · exact .refl h
  · dsimp only
    split
    · exact h.makeAvailable_settles ..
    · exact (h.makeAvailable_settles ..).trans (Hub.post_settles ..)

theorem Hub.fenceLatch_settles (h : Hub) (p : PortId) : h.Settles (h.fenceLatch p) :=
  (Hub.Settles.foldl (fun g (n : Urgent) => g.post_settles n.requester (.preemptCancelled p n.cls)) _ h).trans
    (Hub.updPort_settles ⟨id, id, nofun⟩)

theorem Hub.fenceStart_settles (h : Hub) (p : PortId) : h.Settles (h.fenceStart p) := by
  have fenced : h.Settles (h.updPort p fun x => { x with state := .fenced }) :=
    Hub.updPort_settles ⟨nofun, id, fun _ => id⟩
  have freed := fenced.trans (Hub.freeAll_settles _ (h.port p).filling)
  have emptied := freed.trans
    (Hub.updPort_settles (p := p) (f := fun x => { x with filling := [] }) ⟨id, id, fun _ => id⟩)
  have ended : h.Settles (h.fenceFrees p) := emptied.trans (Hub.endWait_settles _ p rfl)
  exact (ended.trans (Hub.fenceLatch_settles _ p)).trans (Hub.updPort_settles ⟨id, id, fun _ => id⟩)

theorem Hub.fence_settles (h : Hub) (p : PortId) (why : FenceReason) : h.Settles (h.fence p why) := by
  rw [Hub.fence_eq]
  exact ((h.fenceStart_settles p).trans (.foldl (fun g i => g.reclaim_settles p i) _ _)).trans
    (Hub.updPort_settles ⟨id, id, fun _ => id⟩)

/-! ### The promotions (R30, R31) -/

/-- A frame is due in its band when its class ages and it has waited the aging interval there (R30). -/
theorem Hub.mem_dueFrames {k : ClassId} {b : Prio} {j : FrameId} : j ∈ h.dueFrames k b ↔
    (h.cls k).aging ≠ 0 ∧ b ≠ 3 ∧ j ∈ (h.cls k).queue ∧
      ∃ c w, h.ctx j = some c ∧ c.place = .queued b w ∧ (h.cls k).aging ≤ w := by
  have waits : h.isDue (h.cls k).aging b j = true ↔
      ∃ c w, h.ctx j = some c ∧ c.place = .queued b w ∧ (h.cls k).aging ≤ w := by
    unfold Hub.isDue
    split
    · next c used =>
      split
      · next e w place => simp [used, place]
      · next unqueued =>
        refine ⟨nofun, fun ⟨d, w, again, place, _⟩ => ?_⟩
        obtain rfl := Option.some.inj (used.symm.trans again)
        exact absurd place (unqueued b w)
    · next unused => simp [unused]
  unfold Hub.dueFrames
  split
  · next off => exact ⟨nofun, fun ⟨ages, higher, _⟩ => absurd off (not_or.mpr ⟨ages, higher⟩)⟩
  · next on => rw [List.mem_filter, waits, ← and_assoc, ← not_or, and_iff_right on]

/-- What is due for promotion was due before. -/
theorem Hub.Settles.mem_dueFrames (settles : h.Settles g) {k : ClassId} {b : Prio} {j : FrameId}
    (due : j ∈ g.dueFrames k b) : j ∈ h.dueFrames k b := by
  obtain ⟨ages, higher, queued, c, w, used, place, long⟩ := Hub.mem_dueFrames.mp due
  obtain ⟨usedThen, queuedThen⟩ := settles.waited j c b w used place fun fresh =>
    ages (Nat.le_zero.mp (fresh ▸ long))
  rw [settles.aging] at ages long
  exact Hub.mem_dueFrames.mpr ⟨ages, higher, queuedThen k queued, c, w, usedThen, place, long⟩

theorem Hub.promote_ctx (h : Hub) (k : ClassId) (b : Prio) (j : FrameId) : (h.promote k b).ctx j =
    if j ∈ h.dueFrames k b then (h.ctx j).map (fun c => { c with place := .queued (b + 1) 0 }) else h.ctx j := by
  unfold Hub.promote
  dsimp only
  split
  · next empty => rw [List.isEmpty_iff.mp empty, if_neg List.not_mem_nil]
  · exact Hub.setBand_ctx ..

/-- A promotion puts a queue into another order (R31). -/
theorem Hub.promote_cls (h : Hub) (k : ClassId) (b : Prio) (l : ClassId) :
    ∃ q, (h.promote k b).cls l = { h.cls l with queue := q } ∧ q.Perm (h.cls l).queue := by
  unfold Hub.promote
  dsimp only
  split
  · exact ⟨_, rfl, .refl _⟩
  · rw [(Hub.setBand_rest ..).2.1, Hub.updClass_cls]
    split
    · next e => exact e ▸ ⟨_, rfl, h.promoted_perm _ b⟩
    · exact ⟨_, rfl, .refl _⟩

theorem Hub.promote_settles (h : Hub) (k : ClassId) (b : Prio) : h.Settles (h.promote k b) where
  ports q := h.promote_port k b q ▸ .refl _
  aging l := by
    obtain ⟨q, classes, -⟩ := h.promote_cls k b l
    rw [classes]
  waited j c e w used place older := by
    rw [Hub.promote_ctx] at used
    split at used
    · obtain ⟨d, -, rfl⟩ := Option.map_eq_some_iff.mp used
      cases place
      exact absurd rfl older
    · refine ⟨used, fun l queued => ?_⟩
      obtain ⟨q, classes, order⟩ := h.promote_cls k b l
      rw [classes] at queued
      exact order.mem_iff.mp queued

/-- The frames that were due have left their band, and start to wait in the next one. -/
theorem Hub.promote_dueFrames (h : Hub) (k : ClassId) (b : Prio) : (h.promote k b).dueFrames k b = [] := by
  refine List.eq_nil_iff_forall_not_mem.mpr fun j due => ?_
  obtain ⟨ages, -, -, c, w, used, place, long⟩ := Hub.mem_dueFrames.mp due
  rw [Hub.promote_ctx, if_pos ((h.promote_settles k b).mem_dueFrames due)] at used
  obtain ⟨d, -, rfl⟩ := Option.map_eq_some_iff.mp used
  obtain ⟨-, fresh⟩ := Place.queued.inj place
  exact ages (Nat.le_zero.mp (fresh ▸ long))

end Settles

/-! ### The commands that take what is due -/

theorem mem_allPorts (p : PortId) : p ∈ allPorts := by revert p; decide

/-- What the command is for is due: frames to promote, or a timer that has run out. -/
def Hub.Due (h : Hub) : Instr → Prop
  | .agingPromotion k b => h.dueFrames k b ≠ []
  | .waitExpiry p => (h.port p).waitDue = true
  | .graceExpiry p => ∃ n, (h.port p).latch = .pending n (some 0)
  | .leaseExpiry p => (h.port p).leaseDue = true
  | _ => False

theorem Hub.Settles.due {h g : Hub} (settles : h.Settles g) {i : Instr} (due : g.Due i) : h.Due i := by
  cases i with
  | agingPromotion k b =>
    obtain ⟨j, member⟩ := List.exists_mem_of_ne_nil _ due
    exact List.ne_nil_of_mem (settles.mem_dueFrames member)
  | waitExpiry p => exact (settles.ports p).wait due
  | graceExpiry p => exact due.imp (settles.ports p).grace
  | leaseExpiry p => exact (settles.ports p).lease due
  | _ => cases due

/-- The promotions of a class are those of its bands below the top one. -/
theorem mem_promotions {k : ClassId} {i : Instr} :
    i ∈ [Instr.agingPromotion k 2, .agingPromotion k 1, .agingPromotion k 0] ↔
      ∃ b, b ≠ 3 ∧ i = .agingPromotion k b := by
  simp only [List.mem_cons, List.not_mem_nil, or_false]
  constructor
  · rintro (rfl | rfl | rfl)
    · exact ⟨2, by decide, rfl⟩
    · exact ⟨1, by decide, rfl⟩
    · exact ⟨0, by decide, rfl⟩
  · rintro ⟨b, below, rfl⟩
    fin_cases b
    · exact .inr (.inr rfl)
    · exact .inr (.inl rfl)
    · exact .inl rfl
    · exact absurd rfl below

/-- The commands that take what is due promote a band below the top one, or end a timer. -/
theorem mem_dueCommands {i : Instr} : i ∈ dueCommands ↔ (∃ k b, b ≠ 3 ∧ i = .agingPromotion k b) ∨
    (∃ p, i = .waitExpiry p) ∨ (∃ p, i = .graceExpiry p) ∨ ∃ p, i = .leaseExpiry p := by
  simp only [dueCommands, List.mem_append, List.mem_flatMap, List.mem_map, mem_promotions, mem_allClasses,
    mem_allPorts, true_and, or_assoc, eq_comm (b := i)]

/-- Nothing is due where no command that takes what is due has anything to take. -/
theorem State.nothingDue_of_commands {t : State} (taken : ∀ i ∈ dueCommands, ¬ t.hub.Due i) : t.NothingDue := by
  refine ⟨fun p => ⟨?_, ?_, fun n due => ?_⟩, fun k b => ?_⟩
  · exact Bool.eq_false_iff.mpr (taken (.leaseExpiry p) (mem_dueCommands.mpr (.inr (.inr (.inr ⟨p, rfl⟩)))))
  · exact Bool.eq_false_iff.mpr (taken (.waitExpiry p) (mem_dueCommands.mpr (.inr (.inl ⟨p, rfl⟩))))
  · exact taken (.graceExpiry p) (mem_dueCommands.mpr (.inr (.inr (.inl ⟨p, rfl⟩)))) ⟨n, due⟩
  · by_cases top : b = 3
    · exact if_pos (.inr top)
    · exact not_not.mp (taken (.agingPromotion k b) (mem_dueCommands.mpr (.inl ⟨k, b, top, rfl⟩)))

section Commands
variable {i : Instr} {l : List Instr}

theorem Hub.lapse_latch (h : Hub) (p : PortId) (n : Urgent) : ((h.lapse p n).port p).latch = .clear := by
  have posted : ∀ (g : Hub) (q : PortId) (x : Notice), ((g.post q x).port p).latch = (g.port p).latch := by
    intro g q x
    rw [Hub.post_port]
    split
    · next e =>
      obtain ⟨-, -, -, -, -, -, latch, -⟩ := (g.port q).told_rest [x]
      exact e ▸ latch
    · rfl
  rw [Hub.lapse, posted, posted, Hub.updPort_port, if_pos rfl]

/-- A command that takes what is due ends it, and makes nothing else due. -/
theorem exec_takesDue (event : i ∈ dueCommands) (s : State) : ∃ t, exec i s = .next t ∧ s.hub.Settles t.hub ∧
    ¬ t.hub.Due i ∧ t.readiness = s.readiness := by
  rcases mem_dueCommands.mp event with ⟨k, b, -, rfl⟩ | ⟨p, rfl⟩ | ⟨p, rfl⟩ | ⟨p, rfl⟩
  · exact ⟨s.promoteBand k b, rfl, s.hub.promote_settles k b, not_not.mpr (s.hub.promote_dueFrames k b), rfl⟩
  · refine ⟨s.expireWait p, rfl, ?_⟩
    unfold State.expireWait
    split
    · refine ⟨s.hub.endWait_settles p rfl, fun due => ?_, rfl⟩
      have ended := (s.hub.endWait_ends p .expired).1
      rw [Hub.Due, ended] at due
      cases due
    · next early => exact ⟨.refl _, early, rfl⟩
  · refine ⟨s.expireGrace p, rfl, ?_⟩
    by_cases due : s.hub.Due (.graceExpiry p)
    · obtain ⟨n, latch⟩ := due
      rw [State.expireGrace_due latch]
      refine ⟨s.hub.lapse_settles p n, fun ⟨m, pending⟩ => ?_, rfl⟩
      cases (s.hub.lapse_latch p n).symm.trans pending
    · rw [State.expireGrace_early (not_exists.mp due)]
      exact ⟨.refl _, due, rfl⟩
  · refine ⟨s.expireLease p, rfl, ?_⟩
    unfold State.expireLease
    split
    · obtain ⟨-, readiness, -⟩ := s.fencePort_rest p .lease
      refine ⟨s.hub.fence_settles p .lease, fun due => ?_, readiness⟩
      have fenced := (Port.leaseDue_iff _).mp due
      rw [show (s.fencePort p .lease).hub = s.hub.fence p .lease from rfl, Hub.fence_port_self] at fenced
      cases fenced
    · next early => exact ⟨.refl _, early, rfl⟩

/-- A command that takes what is due does nothing where nothing is. -/
theorem exec_notDue (event : i ∈ dueCommands) {s : State} (early : ¬ s.hub.Due i) : exec i s = .next s := by
  rcases mem_dueCommands.mp event with ⟨k, b, -, rfl⟩ | ⟨p, rfl⟩ | ⟨p, rfl⟩ | ⟨p, rfl⟩
  · have empty : s.hub.dueFrames k b = [] := not_not.mp early
    have same : s.hub.promote k b = s.hub := if_pos (by rw [empty]; rfl)
    exact congrArg (fun g => Host.Outcome.next { s with hub := g }) same
  · exact congrArg Host.Outcome.next (if_neg early)
  · exact congrArg Host.Outcome.next (State.expireGrace_early (not_exists.mp early))
  · exact congrArg Host.Outcome.next (if_neg early)

theorem runAll_cons {s t : State} (first : exec i s = .next t) (l : List Instr) : runAll (i :: l) s = runAll l t := by
  rw [runAll, first]

theorem runAll_append {s t u : State} {l l' : List Instr} (first : runAll l s = .next t)
    (second : runAll l' t = .next u) : runAll (l ++ l') s = .next u := by
  induction l generalizing s with
  | nil =>
    cases first
    exact second
  | cons i l ih =>
    rw [List.cons_append]
    rw [runAll] at first ⊢
    split at first
    · exact ih first
    · cases first
    · cases first

/-- Groups of commands that each go on run through. -/
theorem runAll_flatMap {α : Type} {f : α → List Instr} {g : State → α → State}
    (group : ∀ s a, runAll (f a) s = .next (g s a)) (l : List α) (s : State) :
    runAll (l.flatMap f) s = .next (l.foldl g s) := by
  induction l generalizing s with
  | nil => rfl
  | cons a l ih => exact runAll_append (group s a) (ih _)

theorem runAll_map {α : Type} {f : α → Instr} {g : State → α → State}
    (one : ∀ s a, exec (f a) s = .next (g s a)) (l : List α) (s : State) : runAll (l.map f) s = .next (l.foldl g s) := by
  rw [List.map_eq_flatMap]
  exact runAll_flatMap (fun s a => runAll_cons (one s a) []) l s

/-- The commands one after another end all that they are for. -/
theorem runAll_takesDue (events : ∀ i ∈ l, i ∈ dueCommands) (s : State) : ∃ t, runAll l s = .next t ∧
    s.hub.Settles t.hub ∧ (∀ i ∈ l, ¬ t.hub.Due i) ∧ t.readiness = s.readiness := by
  induction l generalizing s with
  | nil => exact ⟨s, rfl, .refl _, nofun, rfl⟩
  | cons i l ih =>
    obtain ⟨event, events⟩ := List.forall_mem_cons.mp events
    obtain ⟨u, first, settles, taken, readiness⟩ := exec_takesDue event s
    obtain ⟨t, rest, settlesRest, takenRest, readinessRest⟩ := ih events u
    exact ⟨t, (runAll_cons first l).trans rest, settles.trans settlesRest,
      List.forall_mem_cons.mpr ⟨taken ∘ settlesRest.due, takenRest⟩, readinessRest.trans readiness⟩

theorem runAll_notDue (events : ∀ i ∈ l, i ∈ dueCommands) {s : State} (early : ∀ i ∈ l, ¬ s.hub.Due i) :
    runAll l s = .next s := by
  induction l with
  | nil => rfl
  | cons i l ih =>
    obtain ⟨event, events⟩ := List.forall_mem_cons.mp events
    obtain ⟨first, rest⟩ := List.forall_mem_cons.mp early
    exact (runAll_cons (exec_notDue event first) l).trans (ih events rest)

/-- The tick takes what is due as the commands would, in their order. -/
theorem runAll_dueCommands (s : State) : runAll dueCommands s = .next s.takeDue := by
  have promotions : runAll (allClasses.flatMap fun k =>
      [.agingPromotion k 2, .agingPromotion k 1, .agingPromotion k 0]) s =
      .next (allClasses.foldl (fun s c => ((s.promoteBand c 2).promoteBand c 1).promoteBand c 0) s) :=
    runAll_flatMap (fun _ _ => rfl) _ s
  have waits := runAll_append promotions (runAll_map (f := .waitExpiry) (fun _ _ => rfl) allPorts _)
  have graces := runAll_append waits (runAll_map (f := .graceExpiry) (fun _ _ => rfl) allPorts _)
  exact runAll_append graces (runAll_map (f := .leaseExpiry) (fun _ _ => rfl) allPorts _)

end Commands

/-! ### CLAIM_RESULT at a wait that has run out (R91, R93) -/

theorem Hub.claimResultNow_expired {h : Hub} {p : PortId} {m : ClassSet} (due : (h.port p).claim = .waiting m 0) :
    h.claimResultNow p = ((h.endWait p .expired).setClaim p .none, .bare .expired) := by
  rw [Hub.claimResultNow, due]
  rfl

/-- A wait that ends and is read at once leaves the record NONE. -/
theorem Hub.expiredRead_clears (h : Hub) (p : PortId) : let g := (h.endWait p .expired).setClaim p .none
    g.port p = { h.port p with claim := .none } ∧ g.waitList = h.waitList.erase p ∧
      h.SameBeyond g { ports := (· = p), waitList := True } := by
  obtain ⟨ended, waitList, same⟩ := h.endWait_ends p .expired
  obtain ⟨cleared, sameRead⟩ := (h.endWait p .expired).setClaim_clears p .none
  exact ⟨by rw [cleared, ended], (sameRead.waitList not_false).trans waitList, same.trans (sameRead.mono {})⟩

/-! ### The tick of a hub that is not ready (R148) -/

theorem exec_timebaseTick_ready {s : State} (ready : s.readiness = .ready) :
    exec .timebaseTick s = .next { s.takeDue with hub := s.takeDue.hub.tick } := by
  show execTimebaseTick s = _
  rw [execTimebaseTick, ready]

theorem exec_timebaseTick_starting {s : State} {n : Nat} (starting : s.readiness = .starting n) :
    exec .timebaseTick s = .next { s with readiness := if n < 2 then .starting (n + 1) else .ready } := by
  show execTimebaseTick s = _
  rw [execTimebaseTick, starting]
  simp only [show n + 1 < Config.readyTicks ↔ n < 2 from Nat.succ_lt_succ_iff]

end Sys2Proof.Machine

/-- Settles O42: what is due is taken command by command, after which a second taking does nothing; CLAIM_RESULT ends a
wait at 0 before it reads the record; and the ticks after hub reset count to the third. -/
theorem tickFirstTakesWhatIsDue : Obligations.TickFirstTakesWhatIsDue := by
  refine ⟨fun s ready _ => ?_, fun s p tag m admitted on due => ?_, fun s n => exec_timebaseTick_starting, ?_, ?_⟩
  · obtain ⟨t, run, -, taken, readiness⟩ := runAll_takesDue (fun _ => id) s
    have again : .next t = Host.Outcome.next t.takeDue :=
      (runAll_notDue (fun _ => id) taken).symm.trans (runAll_dueCommands t)
    refine ⟨t, run, State.nothingDue_of_commands taken, ?_⟩
    have ready : s.readiness = .ready := beq_iff_eq.mp ready
    have first : t = s.takeDue := Host.Outcome.next.inj (run.symm.trans (runAll_dueCommands s))
    rw [exec_timebaseTick_ready ready, exec_timebaseTick_ready (readiness.trans ready),
      ← Host.Outcome.next.inj again, ← first]
  · have hb := bodyOf_claimResult on tag
    rw [Hub.claimResultNow_expired due] at hb
    exact takes_body_eq rfl admitted hb (s.hub.expiredRead_clears p)
  · intro t run
    rw [runAll_cons rfl, runAll_cons (exec_timebaseTick_starting (n := 0) rfl),
      runAll_cons (exec_timebaseTick_starting (n := 1) rfl)] at run
    cases run
    rfl
  · rw [runAll_cons rfl, runAll_cons (exec_timebaseTick_starting (n := 0) rfl),
      runAll_cons (exec_timebaseTick_starting (n := 1) rfl), runAll_cons (exec_timebaseTick_starting (n := 2) rfl)]
    exact ⟨_, rfl, rfl⟩
end

section
/-!
One step of the machine: the command at the front of the queue runs on the state with the queue's rest, and an empty
queue leaves the machine idle.
-/
namespace Sys2Proof.Machine

theorem step_of_pending_cons {s : State} {i : Instr} {rest : List Instr} (front : s.pending = i :: rest) :
    step s = exec i { s with pending := rest } := by
  rw [step, front]

theorem step_of_pending_nil {s : State} (idle : s.pending = []) : step s = .next s := by
  rw [step, idle]

end Sys2Proof.Machine

open Sys2Proof.Machine

/-- Settles O1: the two equations of a step, by the form of the queue. -/
theorem stepRunsTheFrontCommand : Obligations.StepRunsTheFrontCommand :=
  ⟨fun _ _ _ => step_of_pending_cons, fun _ => step_of_pending_nil⟩
end

section
/-!
The populations of the classes (R22, R23). Most deeds keep every frame in use in its class and change no class record
but its queue; the populations stay true through these because nothing they count changes. What is left is the freeing
of frames, the opening of a park and CLASS_SET.
-/
open Sys2Proof Sys2Proof.Machine
namespace Sys2Proof.Machine

/-! ### The members of a class -/

/-- The class a frame counts for, none for a FREE one. -/
def Hub.memberOf (h : Hub) (j : FrameId) : Option ClassId := (h.ctx j).map (fun c => c.control.cls)

section Members
variable {h g : Hub} {i : FrameId} {c : Context}

theorem Hub.memberOf_used (used : h.ctx i = some c) : h.memberOf i = some c.control.cls := by
  rw [Hub.memberOf, used]
  rfl

theorem Hub.memberOf_congr {j : FrameId} (ctx : g.ctx j = h.ctx j) : g.memberOf j = h.memberOf j :=
  congrArg (Option.map _) ctx

theorem Hub.membersOf_eq (h : Hub) (k : ClassId) :
    h.membersOf k = (List.finRange 64).filter (fun j => h.memberOf j == some k) := by
  refine List.filter_congr fun j _ => ?_
  unfold Hub.memberOf
  cases h.ctx j <;> rfl

theorem Hub.membersOf_congr (members : ∀ j, g.memberOf j = h.memberOf j) (k : ClassId) :
    g.membersOf k = h.membersOf k := by
  simp only [Hub.membersOf_eq, members]

theorem Hub.mem_membersOf {j : FrameId} {k : ClassId} : j ∈ h.membersOf k ↔ h.memberOf j = some k := by
  simp [Hub.membersOf_eq]

theorem Hub.membersOf_nodup (h : Hub) (k : ClassId) : (h.membersOf k).Nodup := (List.nodup_finRange _).filter _

/-- Where one frame is in use in the first hub and FREE in the second, its class has one member fewer there. -/
theorem Hub.membersOf_length {l : ClassId} (used : h.memberOf i = some l)
    (freed : ∀ j, g.memberOf j = if j = i then none else h.memberOf j) (k : ClassId) :
    (h.membersOf k).length = (g.membersOf k).length + if k = l then 1 else 0 := by
  have left : g.membersOf k = (h.membersOf k).erase i := by
    rw [(h.membersOf_nodup k).erase_eq_filter, Hub.membersOf_eq, Hub.membersOf_eq, List.filter_filter]
    refine List.filter_congr fun j _ => ?_
    rw [freed]
    by_cases own : j = i
    · simp [own]
    · simp [own]
  rw [left]
  by_cases own : k = l
  · have member : i ∈ h.membersOf k := Hub.mem_membersOf.mpr (own ▸ used)
    rw [if_pos own, List.length_erase_add_one member]
  · have other : i ∉ h.membersOf k := fun member =>
      own (Option.some.inj ((Hub.mem_membersOf.mp member).symm.trans used))
    rw [if_neg own, List.erase_of_not_mem other, Nat.add_zero]

end Members

/-! ### What keeps every member and every population -/

/-- Every frame counts for the class it counted for, and no class record changes but its queue. -/
structure Hub.KeepsMembers (h g : Hub) : Prop where
  members : ∀ j, g.memberOf j = h.memberOf j
  records : ∀ k, ∃ q, g.cls k = { h.cls k with queue := q }

theorem Hub.PopulationsTrue.kept {h g : Hub} (hp : h.PopulationsTrue) (x : h.KeepsMembers g) : g.PopulationsTrue := by
  intro k
  obtain ⟨q, record⟩ := x.records k
  rw [record, Hub.membersOf_congr x.members]
  exact hp k

section Keeps
variable {h g : Hub} {p : PortId} {i : FrameId} {c d : Context}

theorem Hub.KeepsMembers.refl (h : Hub) : h.KeepsMembers h := ⟨fun _ => rfl, fun _ => ⟨_, rfl⟩⟩

theorem Hub.KeepsMembers.trans {k : Hub} (x : h.KeepsMembers g) (y : g.KeepsMembers k) : h.KeepsMembers k where
  members j := (y.members j).trans (x.members j)
  records l := by
    obtain ⟨q, first⟩ := x.records l
    obtain ⟨q', second⟩ := y.records l
    exact ⟨q', by rw [second, first]⟩

theorem Hub.KeepsMembers.foldl {α : Type} {f : Hub → α → Hub} (one : ∀ (g : Hub) a, g.KeepsMembers (f g a))
    (l : List α) (h : Hub) : h.KeepsMembers (l.foldl f h) := by
  induction l generalizing h with
  | nil => exact .refl h
  | cons a l ih => exact (one h a).trans (ih _)

/-- A change that reaches no class, and only frames that it leaves in their classes. -/
theorem Hub.KeepsMembers.beyond {x : Reach} (same : h.SameBeyond g x) (classes : ∀ k, ¬ x.classes k)
    (moved : ∀ j, x.frames j → g.memberOf j = h.memberOf j) : h.KeepsMembers g where
  members j := by
    by_cases reached : x.frames j
    · exact moved j reached
    · exact Hub.memberOf_congr (congrArg Frame.ctx (same.frames j reached))
  records k := ⟨_, same.classes k (classes k)⟩

/-- A change of ports and lists alone. -/
theorem Hub.KeepsMembers.ofPorts {ports : PortId → Prop} {waitList isolation : Prop}
    (same : h.SameBeyond g { ports := ports, waitList := waitList, isolation := isolation }) : h.KeepsMembers g :=
  .beyond same (fun _ => id) fun _ => False.elim

theorem Hub.memberOf_of_frame {f : Frame} (used : h.ctx i = some c) (frame : g.frame i = { f with ctx := some d })
    (cls : d.control.cls = c.control.cls) : g.memberOf i = h.memberOf i := by
  rw [Hub.memberOf_used used, Hub.memberOf, Hub.ctx, frame, ← cls]
  rfl

/-- A change of one frame in use that keeps its class, and beside it of ports and lists alone. -/
theorem Hub.KeepsMembers.ofFrame {ports : PortId → Prop} {waitList isolation : Prop} {f : Frame}
    (used : h.ctx i = some c) (frame : g.frame i = { f with ctx := some d }) (cls : d.control.cls = c.control.cls)
    (same : h.SameBeyond g { frames := (· = i), ports := ports, waitList := waitList, isolation := isolation }) :
    h.KeepsMembers g :=
  .beyond same (fun _ => id) fun _ own => own ▸ Hub.memberOf_of_frame used frame cls

theorem Hub.updPort_keepsMembers (h : Hub) (p : PortId) (f : Port → Port) : h.KeepsMembers (h.updPort p f) :=
  .ofPorts (h.updPort_sameBeyond p f)

theorem Hub.post_keepsMembers (h : Hub) (p : PortId) (n : Notice) : h.KeepsMembers (h.post p n) :=
  .ofPorts (h.post_tells p n).2

theorem Hub.setLatch_keepsMembers (h : Hub) (p : PortId) (l : Latch) : h.KeepsMembers (h.setLatch p l) :=
  .ofPorts (h.setLatch_changes p l).2

theorem Hub.putCtx_keepsMembers (used : h.ctx i = some c) (cls : d.control.cls = c.control.cls) :
    h.KeepsMembers (h.putCtx i d) :=
  .ofFrame used ((h.putCtx_frame i d i).trans (if_pos rfl)) cls (h.putCtx_sameBeyond i d)

theorem Hub.leaveOwner_keepsMembers (h : Hub) (i : FrameId) (c : Context) : h.KeepsMembers (h.leaveOwner i c) := by
  obtain ⟨-, -, classes, ctx, -⟩ := h.leaveOwner_rest i c
  exact ⟨fun j => Hub.memberOf_congr (ctx j), fun k => ⟨_, classes k⟩⟩

/-- A frame made available is held or queued, in its class (R25). -/
theorem Hub.makeAvailable_keepsMembers (used : h.ctx i = some c) (cls : d.control.cls = c.control.cls) (cause : Cause)
    (passed : Option PortId) : h.KeepsMembers (h.makeAvailable i d cause passed).1 := by
  have members : ∀ {g : Hub} {e : Context}, e.control.cls = c.control.cls →
      (∀ j, g.frame j = if j = i then { h.frame i with ctx := some e } else h.frame j) →
      ∀ j, g.memberOf j = h.memberOf j := fun same frames j => by
    by_cases own : j = i
    · subst own
      exact Hub.memberOf_of_frame used ((frames j).trans (if_pos rfl)) same
    · exact Hub.memberOf_congr (congrArg Frame.ctx ((frames j).trans (if_neg own)))
  unfold Hub.makeAvailable
  split
  · next q _ =>
    obtain ⟨frames, -, classes, -⟩ := h.grant_parts i { d with cause := some cause } q
    exact ⟨members (e := { d with cause := some cause, place := .held q false }) cls frames, fun k => ⟨_, classes k⟩⟩
  · refine ⟨members (e := { d with cause := some cause, place := .queued d.control.base 0 }) cls
      (h.enqueue_frame i d cause), fun k => ?_⟩
    obtain ⟨q, record, -⟩ := h.enqueue_cls i d cause k
    exact ⟨q, record⟩

theorem Hub.enterHold_keepsMembers (used : h.ctx i = some c) (p : PortId) : h.KeepsMembers (h.enterHold i c p) :=
  .ofFrame (d := { c with place := .held p false }) used (h.enterHold_restores i c p).1 rfl
    (h.enterHold_restores i c p).2.2

theorem Hub.reclaim_keepsMembers (h : Hub) (p : PortId) (i : FrameId) : h.KeepsMembers (h.reclaim p i) := by
  unfold Hub.reclaim
  split
  · exact .refl h
  · next used =>
    have given := Hub.makeAvailable_keepsMembers used rfl .reclaimed (some p)
    dsimp only
    split
    · exact given
    · exact given.trans (Hub.post_keepsMembers ..)

theorem EndTally.deal_keepsMembers (t : EndTally) (p : PortId) (i : FrameId) :
    t.hub.KeepsMembers (t.deal p i).hub := by
  unfold EndTally.deal
  split
  · exact .refl _
  · next used =>
    split
    · exact Hub.enterHold_keepsMembers used p
    · exact Hub.makeAvailable_keepsMembers used rfl ..

theorem EndTally.foldl_deal_keepsMembers (t : EndTally) (p : PortId) (l : List FrameId) :
    t.hub.KeepsMembers (l.foldl (fun t i => t.deal p i) t).hub := by
  induction l generalizing t with
  | nil => exact .refl _
  | cons i l ih => exact (t.deal_keepsMembers p i).trans (ih _)

theorem Hub.endService_keepsMembers (h : Hub) (p : PortId) (v : Urgent) :
    h.KeepsMembers (h.endService p v).hub := by
  rw [Hub.endService_hub]
  exact (Hub.KeepsMembers.ofPorts (h.liftGroup_lifts p).2).trans <|
    (EndTally.foldl_deal_keepsMembers _ p _).trans <|
      (Hub.post_keepsMembers ..).trans (Hub.setLatch_keepsMembers ..)

/-- The frames saved are STACKED, in their classes (R116). -/
theorem Hub.beginService_keepsMembers (h : Hub) (p : PortId) (n : Urgent) : h.KeepsMembers (h.beginService p n) := by
  refine .beyond (h.beginService_sameBeyond p n) (fun _ => id) fun j held => ?_
  have ctx : (h.beginService p n).ctx j = _ :=
    ((Hub.post_rest ..).2.2.2.1 j).trans (h.foldl_stackFrame_ctx p (h.port p).hold j)
  rw [Hub.memberOf, ctx, if_pos held, Option.map_map]
  rfl

theorem Hub.postUrgent_keepsMembers (h : Hub) (t : PortId) (n : Urgent) : h.KeepsMembers (h.postUrgent t n).1 := by
  unfold Hub.postUrgent
  split
  · exact h.setLatch_keepsMembers ..
  · exact .refl h
  · exact h.setLatch_keepsMembers ..
  · exact .refl h

theorem Hub.resumeFrame_keepsMembers (h : Hub) (p : PortId) (i : FrameId) : h.KeepsMembers (h.resumeFrame p i) := by
  unfold Hub.resumeFrame
  split
  · next used => exact Hub.enterHold_keepsMembers used p
  · exact .refl h

/-- A claimed frame leaves its queue, in its class (R63). -/
theorem Hub.claimFrame_keepsMembers (used : h.ctx i = some c) (p : PortId) : h.KeepsMembers (h.claimFrame p i c) := by
  obtain ⟨frame, queue, -, rest⟩ := h.claimFrame_claims p i c
  refine ⟨fun j => ?_, fun k => ?_⟩
  · by_cases own : j = i
    · subst own
      exact Hub.memberOf_of_frame used frame rfl
    · exact Hub.memberOf_congr (congrArg Frame.ctx (rest.frames j own))
  · by_cases own : k = c.control.cls
    · exact own ▸ ⟨_, queue⟩
    · exact ⟨_, rest.classes k own⟩

theorem Hub.promote_keepsMembers (h : Hub) (k : ClassId) (b : Prio) : h.KeepsMembers (h.promote k b) where
  members j := by
    rw [Hub.memberOf, Hub.promote_ctx]
    split
    · rw [Option.map_map]
      rfl
    · rfl
  records l := by
    obtain ⟨q, record, -⟩ := h.promote_cls k b l
    exact ⟨q, record⟩

theorem Frame.tick_cls (f : Frame) :
    f.tick.ctx.map (fun c => c.control.cls) = f.ctx.map (fun c => c.control.cls) := by
  unfold Frame.tick
  split
  · next used =>
    split
    · rw [used]
      rfl
    · rfl
  · rfl

theorem Hub.tick_keepsMembers (h : Hub) : h.KeepsMembers h.tick where
  members j := by
    rw [Hub.memberOf, Hub.ctx, Hub.tick_frame, Frame.tick_cls]
    rfl
  records _ := ⟨_, rfl⟩

theorem Hub.restartWaits_keepsMembers (h : Hub) (l : List FrameId) : h.KeepsMembers (h.restartWaits l) := by
  induction l generalizing h with
  | nil => exact .refl h
  | cons i l ih =>
    unfold Hub.restartWaits
    split
    · next c used =>
      split
      · next e _ _ =>
        exact (Hub.putCtx_keepsMembers (d := { c with place := .queued e 0 }) used rfl).trans (ih _)
      · exact ih h
    · exact ih h

end Keeps

/-! ### Frames freed and opened, and CLASS_SET (R18, R23, R34, R42) -/

section Populations
variable {h g : Hub} {i : FrameId} {c : Context}

/-- A frame freed leaves its class with one member fewer, and the population with it (R18, R23). -/
theorem Hub.PopulationsTrue.freeFrame (hp : h.PopulationsTrue) (used : h.ctx i = some c) :
    (h.freeFrame i c).PopulationsTrue := fun k => by
  have length := Hub.membersOf_length (g := h.freeFrame i c) (Hub.memberOf_used used) (fun j => by
    rw [Hub.memberOf, Hub.freeFrame_ctx]
    split <;> rfl) k
  obtain ⟨counts, limit, disabled⟩ := hp k
  rw [Hub.freeFrame_cls]
  split
  · next own =>
    rw [if_pos own] at length
    exact ⟨by rw [counts, length, Nat.add_sub_cancel], (Nat.sub_le ..).trans limit,
      fun off => by rw [disabled off]⟩
  · next other =>
    rw [if_neg other] at length
    exact ⟨counts.trans length, limit, disabled⟩

theorem Hub.PopulationsTrue.freeAll (hp : h.PopulationsTrue) (l : List FrameId) :
    (h.freeAll l).PopulationsTrue := by
  induction l generalizing h with
  | nil => exact hp
  | cons i l ih =>
    unfold Hub.freeAll
    split
    · next used => exact ih (hp.freeFrame used)
    · exact ih hp

/-- A fence frees the frames of the filling list, and keeps the others in their classes (R140, R143). -/
theorem Hub.PopulationsTrue.fence (hp : h.PopulationsTrue) (p : PortId) (why : FenceReason) :
    (h.fence p why).PopulationsTrue := by
  have freed := (hp.kept (h.updPort_keepsMembers p (fun x => { x with state := .fenced }))).freeAll (h.port p).filling
  have started : (h.fenceStart p).PopulationsTrue := freed.kept (.ofPorts (h.fenceStart_sameBeyond p))
  have reclaimed : (h.fenceEnd p).PopulationsTrue := started.kept (.foldl (fun g i => g.reclaim_keepsMembers p i) _ _)
  exact reclaimed.kept (.ofPorts (h.fence_fenceEnd p why))

/-- CLASS_SET passes only where the new settings suit the population (R33). -/
theorem Hub.PopulationsTrue.setClassRecord (hp : h.PopulationsTrue) {a : ClassSetArgs}
    (closed : a.enabled = false → (h.cls a.cls).population = 0) (fits : (h.cls a.cls).population ≤ a.limit) :
    (h.setClassRecord a).PopulationsTrue := by
  have set : (h.updClass a.cls
      (fun x => { x with enabled := a.enabled, limit := a.limit, aging := a.aging })).PopulationsTrue := fun k => by
    have members := Hub.membersOf_congr (h := h) (g := h.updClass a.cls
      (fun x => { x with enabled := a.enabled, limit := a.limit, aging := a.aging })) (fun _ => rfl) k
    rw [members, Hub.updClass_cls]
    split
    · next own =>
      subst own
      exact ⟨(hp a.cls).1, fits, closed⟩
    · exact hp k
  unfold Hub.setClassRecord
  dsimp only
  split
  · exact set
  · exact set.kept (Hub.restartWaits_keepsMembers ..)

/-- A park opens only in a class that is enabled and below its limit (R40, R42). -/
theorem Hub.Opens.populationsTrue (o : h.Opens g) (hp : h.PopulationsTrue) : g.PopulationsTrue := fun k => by
  cases o with
  | @park p i c len check on enabled legal positive short filling room lowest space =>
    have unused := Hub.ctx_of_lowestFree lowest
    have opened : (h.openPark p i c len check).memberOf i = some c.cls :=
      Hub.memberOf_used ((h.openPark_ctx p i c len check i).trans (if_pos rfl))
    have length := Hub.membersOf_length (g := h) opened (fun j => by
      split
      · next own => rw [own, Hub.memberOf, unused]; rfl
      · next other => rw [Hub.memberOf, Hub.memberOf, Hub.openPark_ctx, if_neg other]) k
    obtain ⟨counts, limit, disabled⟩ := hp k
    rw [Hub.openPark_cls]
    split
    · next own =>
      subst own
      rw [if_pos rfl] at length
      exact ⟨by rw [counts, length], room, fun off => absurd (off.symm.trans enabled) nofun⟩
    · next other =>
      rw [if_neg other] at length
      exact ⟨counts.trans length.symm, limit, disabled⟩

theorem Hub.Rewrites.populationsTrue (x : h.Rewrites g) (hp : h.PopulationsTrue) : g.PopulationsTrue :=
  hp.kept ⟨fun j => Hub.memberOf_congr (x.ctx j), fun k => ⟨_, x.classes k⟩⟩

theorem Hub.Writes.populationsTrue (w : h.Writes g) (hp : h.PopulationsTrue) : g.PopulationsTrue := by
  cases w with
  | @fill p i c off ws on used filling fits =>
    have stored := h.storeWords_rewrites c off ws
    exact (stored.populationsTrue hp).kept (Hub.putCtx_keepsMembers ((stored.ctx i).trans used) rfl)
  | @modify p i c off ws on used held =>
    have stored := h.storeWords_rewrites c off ws
    exact (stored.populationsTrue hp).kept (Hub.putCtx_keepsMembers ((stored.ctx i).trans used) rfl)
  | rewrite used isolated => exact (h.storeWords_rewrites ..).populationsTrue hp
  | strike => exact (h.strike_rewrites ..).populationsTrue hp

/-! ### Every deed -/

/-- Every deed keeps the populations true. -/
theorem Hub.Deed.populationsTrue (d : h.Deed g) (hp : h.PopulationsTrue) : g.PopulationsTrue := by
  cases d with
  | free on used owned =>
    exact (hp.kept (h.leaveOwner_keepsMembers ..)).freeFrame ((Hub.leaveOwner_ctx ..).trans used)
  | @discard i c used isolated =>
    have left : (h.leaveIsolation i).PopulationsTrue := hp.kept ⟨fun _ => rfl, fun _ => ⟨_, rfl⟩⟩
    exact left.freeFrame used
  | setClass positive bounded aging closed fits => exact hp.setClassRecord closed fits
  | fence on => exact hp.fence _ _
  | join off lease grace => exact hp.kept (h.updPort_keepsMembers ..)
  | leave on may => exact hp.kept (.ofPorts (h.endSession_sameBeyond _))
  | subscribe on => exact hp.kept (h.updPort_keepsMembers ..)
  | restartLease => exact hp.kept (h.updPort_keepsMembers ..)
  | goOffline off => exact hp.kept (h.updPort_keepsMembers ..)
  | @isolate p i c check r on used owned =>
    obtain ⟨isolates, same⟩ := h.isolate_isolates i { c with check := check } r
    exact hp.kept (.ofFrame used isolates.frame rfl same)
  | @release p i c check cause passed on used owned =>
    have left := h.leaveOwner_keepsMembers i { c with check := check }
    have still : (h.leaveOwner i { c with check := check }).ctx i = some c := (Hub.leaveOwner_ctx ..).trans used
    exact hp.kept (left.trans (Hub.makeAvailable_keepsMembers (d := { c with check := check }) still rfl cause passed))
  | edit on used owned amends => exact hp.kept (Hub.putCtx_keepsMembers used amends.cls)
  | stayIsolated used isolated amends => exact hp.kept (Hub.putCtx_keepsMembers used amends.cls)
  | @repair i c k check used isolated amends =>
    have left : (h.leaveIsolation i).PopulationsTrue := hp.kept ⟨fun _ => rfl, fun _ => ⟨_, rfl⟩⟩
    exact left.kept (Hub.makeAvailable_keepsMembers (h := h.leaveIsolation i) used amends.cls _ _)
  | claim on room queued used allowed => exact hp.kept (Hub.claimFrame_keepsMembers used _)
  | wait on mask time room idle empty => exact hp.kept (.ofPorts (h.beginWait_begins _ _ _).2.2)
  | endWait ended on => exact hp.kept (.ofPorts (h.endWait_ends _ _).2.2)
  | readClaim result => exact hp.kept (h.updPort_keepsMembers ..)
  | @suspend p i c on used held room =>
    obtain ⟨frame, -, same⟩ := Hub.pushVoluntary_pushes (p := p) used
    exact hp.kept (.ofFrame used frame rfl same)
  | resume on top tag room => exact hp.kept ((h.updPort_keepsMembers ..).trans (Hub.resumeFrame_keepsMembers ..))
  | preempt other on => exact hp.kept (h.postUrgent_keepsMembers ..)
  | takePreempt on latch room => exact hp.kept (h.beginService_keepsMembers ..)
  | endPreempt on latch held flat room => exact hp.kept (h.endService_keepsMembers ..)
  | readNotices => exact hp.kept (h.updPort_keepsMembers ..)
  | lapse latch => exact hp.kept (.ofPorts (h.lapse_sameBeyond _ _))
  | promote => exact hp.kept (h.promote_keepsMembers ..)
  | tick => exact hp.kept h.tick_keepsMembers

end Populations

end Sys2Proof.Machine

/-- Settles O55: a population falls with the frames freed and rises with the frame a park opens, and CLASS_SET passes
only where its settings suit it. -/
theorem stepsKeepPopulationsTrue : Obligations.StepsKeepPopulationsTrue :=
  fun _ _ hp e => step_keeps (Law := Hub.PopulationsTrue) Hub.reset_populationsTrue (fun hp d => d.populationsTrue hp)
    (fun hp o => o.populationsTrue hp) (fun hp w => w.populationsTrue hp) hp e
end

section
/-!
The queues in their bands (R24, R26, R30). A queue leaves its bands only where a frame joins it or a queued frame takes
another effective priority: the insertion of a frame that is made available, and the promotion of the due frames of a
band. Every other deed lets queues lose frames at most, and changes no frame that stands in one.
-/
open Sys2Proof Sys2Proof.Machine
namespace Sys2Proof.Machine

/-! ### Frames that stand in no queue -/

theorem Place.isQueued_of_owner {p : PortId} {x : Place} (owned : x.owner = some p) : x.isQueued = false := by
  cases x with
  | queued e w => cases owned
  | _ => rfl

theorem Place.isQueued_of_isIsolated {x : Place} (isolated : x.isIsolated = true) : x.isQueued = false := by
  cases x with
  | queued e w => cases isolated
  | _ => rfl

section Unqueued
variable {h g : Hub} {out : List FrameId} {i : FrameId} {c : Context}

/-- In a hub whose frames are filed, a frame on another shelf stands in no queue, and neither does a FREE one. -/
theorem Hub.FiledBut.not_queued {x : Option Shelf} (hf : h.FiledBut out) (stood : h.shelfOf i = x)
    (other : ∀ k, x ≠ some (.queue k)) (k : ClassId) : i ∉ (h.cls k).queue := fun listed =>
  other k (stood.symm.trans ((hf.mem (.queue k) i).mp listed).2)

theorem Hub.FiledBut.not_queued_of_place (hf : h.FiledBut out) (used : h.ctx i = some c)
    (place : c.place.isQueued = false) : ∀ k, i ∉ (h.cls k).queue := by
  refine hf.not_queued (Hub.shelfOf_eq used) fun k stood => ?_
  unfold Context.shelf at stood
  cases at_place : c.place with
  | queued e w => rw [at_place] at place; cases place
  | _ => rw [at_place] at stood; cases stood

theorem Hub.FiledBut.not_queued_of_owner {p : PortId} (hf : h.FiledBut out) (used : h.ctx i = some c)
    (owned : c.place.owner = some p) : ∀ k, i ∉ (h.cls k).queue :=
  hf.not_queued_of_place used (Place.isQueued_of_owner owned)

end Unqueued

/-! ### What lets a queue lose frames at most -/

section Banded
variable {h g : Hub} {out : List FrameId} {p : PortId} {i : FrameId} {c d : Context}

/-- Queues that only lose frames, and whose frames keep their effective priorities, stay in their bands. -/
theorem Hub.QueuesBanded.thinned (hb : h.QueuesBanded) (queues : ∀ k, (g.cls k).queue.Sublist (h.cls k).queue)
    (eff : ∀ k, ∀ j ∈ (g.cls k).queue, g.effOf j = h.effOf j) : g.QueuesBanded := fun k => by
  refine ((hb k).sublist (queues k)).imp_of_mem fun {a b} ha hb le => ?_
  rwa [eff k a ha, eff k b hb]

/-- A change that leaves every queue, and reaches no frame that stands in one. -/
theorem Hub.QueuesBanded.beyond {x : Reach} (hb : h.QueuesBanded) (same : h.SameBeyond g x)
    (queues : ∀ k, (g.cls k).queue = (h.cls k).queue) (idle : ∀ j, x.frames j → ∀ k, j ∉ (h.cls k).queue) :
    g.QueuesBanded :=
  hb.thinned (fun k => queues k ▸ .refl _) fun k j queued =>
    Hub.effOf_of_frame (same.frames j fun reached => idle j reached k (queues k ▸ queued))

/-- A change of ports and lists alone. -/
theorem Hub.QueuesBanded.ofPorts {ports : PortId → Prop} {waitList isolation : Prop} (hb : h.QueuesBanded)
    (same : h.SameBeyond g { ports := ports, waitList := waitList, isolation := isolation }) : g.QueuesBanded :=
  hb.beyond same (fun k => congrArg ClassRec.queue (same.classes k id)) fun _ => False.elim

/-- A change of one frame that stands in no queue, and beside it of ports and lists alone. -/
theorem Hub.QueuesBanded.ofFrame {ports : PortId → Prop} {waitList isolation : Prop} (hb : h.QueuesBanded)
    (idle : ∀ k, i ∉ (h.cls k).queue)
    (same : h.SameBeyond g { frames := (· = i), ports := ports, waitList := waitList, isolation := isolation }) :
    g.QueuesBanded :=
  hb.beyond same (fun k => congrArg ClassRec.queue (same.classes k id)) fun _ own => own ▸ idle

theorem Hub.QueuesBanded.updPort (hb : h.QueuesBanded) (p : PortId) (f : Port → Port) :
    (h.updPort p f).QueuesBanded := hb.ofPorts (h.updPort_sameBeyond p f)

theorem Hub.QueuesBanded.post (hb : h.QueuesBanded) (p : PortId) (n : Notice) : (h.post p n).QueuesBanded :=
  hb.ofPorts (h.post_tells p n).2

theorem Hub.QueuesBanded.setLatch (hb : h.QueuesBanded) (p : PortId) (l : Latch) : (h.setLatch p l).QueuesBanded :=
  hb.ofPorts (h.setLatch_changes p l).2

theorem Hub.QueuesBanded.leaveOwner (hb : h.QueuesBanded) (i : FrameId) (c : Context) :
    (h.leaveOwner i c).QueuesBanded := by
  obtain ⟨-, -, classes, -, -, eff, -⟩ := h.leaveOwner_rest i c
  exact hb.thinned (fun k => by rw [classes]) fun k j _ => eff j

theorem Hub.QueuesBanded.leaveIsolation (hb : h.QueuesBanded) (i : FrameId) : (h.leaveIsolation i).QueuesBanded := hb

/-- A frame that stands in no queue is freed (R18). -/
theorem Hub.QueuesBanded.freeFrame (hb : h.QueuesBanded) (idle : ∀ k, i ∉ (h.cls k).queue) (c : Context) :
    (h.freeFrame i c).QueuesBanded := by
  have queues : ∀ k, ((h.freeFrame i c).cls k).queue = (h.cls k).queue := fun k => by
    rw [Hub.freeFrame_cls]
    split <;> rfl
  refine hb.thinned (fun k => queues k ▸ .refl _) fun k j queued => Hub.effOf_of_frame ?_
  have other : j ≠ i := fun own => idle k (own ▸ (queues k).subst queued)
  rw [Hub.freeFrame_frame, if_neg other]

theorem Hub.QueuesBanded.postUrgent (hb : h.QueuesBanded) (t : PortId) (n : Urgent) :
    (h.postUrgent t n).1.QueuesBanded := by
  unfold Hub.postUrgent
  split
  · exact hb.setLatch _ _
  · exact hb
  · exact hb.setLatch _ _
  · exact hb

theorem Hub.QueuesBanded.resumeFrame (hb : h.QueuesBanded) (idle : ∀ k, i ∉ (h.cls k).queue) (p : PortId) :
    (h.resumeFrame p i).QueuesBanded := by
  unfold Hub.resumeFrame
  split
  · exact hb.restores idle (h.enterHold_restores ..)
  · exact hb

/-- A claimed frame leaves its queue, where the others stand as before (R28). -/
theorem Hub.QueuesBanded.claimFrame (hb : h.QueuesBanded) (hf : h.FiledBut []) {k : ClassId}
    (queued : i ∈ (h.cls k).queue) (used : h.ctx i = some c) (p : PortId) : (h.claimFrame p i c).QueuesBanded := by
  obtain ⟨frame, queue, -, rest⟩ := h.claimFrame_claims p i c
  have taken : ∀ l, i ∉ ((h.claimFrame p i c).cls l).queue :=
    (hf.claimFrame queued used p).not_queued_of_place (congrArg Frame.ctx frame) rfl
  refine hb.thinned (fun l => ?_) fun l j listed => Hub.effOf_of_frame (rest.frames j fun own => taken l (own ▸ listed))
  by_cases own : l = c.control.cls
  · subst own
    rw [queue]
    exact List.erase_sublist
  · rw [rest.classes l own]

/-- A tick adds to the waited time of a frame, and leaves its band (R29). -/
theorem Hub.tick_effOf (h : Hub) (j : FrameId) : h.tick.effOf j = h.effOf j := by
  simp only [Hub.effOf, Hub.ctx, Hub.tick_frame, Frame.tick]
  cases used : (h.frame j).ctx with
  | none => simp only [used]
  | some c => cases place : c.place <;> simp [used, Context.eff, place]

end Banded

/-! ### CLASS_SET (R32, R34) -/

/-- A queued frame whose waited time restarts (R32). -/
def Context.restarted (c : Context) : Context :=
  match c.place with
  | .queued e _ => { c with place := .queued e 0 }
  | _ => c

theorem Context.restarted_queued {c : Context} {e : Prio} {w : Nat} (place : c.place = .queued e w) :
    c.restarted = { c with place := .queued e 0 } := by
  simp only [Context.restarted, place]

theorem Context.restarted_restarted (c : Context) : c.restarted.restarted = c.restarted := by
  unfold Context.restarted
  cases place : c.place <;> simp only [place]

theorem Context.restarted_eff (c : Context) : c.restarted.eff = c.eff := by
  unfold Context.restarted Context.eff
  cases place : c.place <;> simp only [place]

section Restart
variable {h : Hub} {i : FrameId} {c : Context}

/-- The waited times of a list of frames restart one after another. -/
theorem Hub.restartWaits_cons (used : h.ctx i = some c) (l : List FrameId) :
    h.restartWaits (i :: l) = (h.putCtx i c.restarted).restartWaits l ∨
      h.restartWaits (i :: l) = h.restartWaits l ∧ c.restarted = c := by
  obtain ⟨control, origin, cause, len, blocks, check, place⟩ := c
  rw [Hub.restartWaits, used]
  cases place with
  | queued e w => exact .inl rfl
  | _ => exact .inr ⟨rfl, rfl⟩

theorem Hub.restartWaits_cons_free (unused : h.ctx i = none) (l : List FrameId) :
    h.restartWaits (i :: l) = h.restartWaits l := by
  rw [Hub.restartWaits, unused]

/-- Each frame of the list has its waited time restarted, in its band. -/
theorem Hub.restartWaits_ctx (h : Hub) (l : List FrameId) (j : FrameId) :
    (h.restartWaits l).ctx j = if j ∈ l then (h.ctx j).map Context.restarted else h.ctx j := by
  induction l generalizing h with
  | nil => rfl
  | cons i l ih =>
    simp only [List.mem_cons]
    cases used : h.ctx i with
    | none =>
      rw [Hub.restartWaits_cons_free used, ih]
      by_cases own : j = i
      · subst own
        simp [used]
      · simp [own]
    | some c =>
      rcases Hub.restartWaits_cons used l with step | ⟨step, fixed⟩
      · rw [step, ih, Hub.ctx_putCtx]
        by_cases own : j = i
        · subst own
          simp [used, Context.restarted_restarted]
        · simp [own]
      · rw [step, ih]
        by_cases own : j = i
        · subst own
          simp [used, fixed]
        · simp [own]

/-- A restart of waited times changes the frames of the list, and nothing else. -/
theorem Hub.restartWaits_sameBeyond (h : Hub) (l : List FrameId) :
    h.SameBeyond (h.restartWaits l) { frames := (· ∈ l) } := by
  induction l generalizing h with
  | nil => exact .refl h _
  | cons i l ih =>
    have rest : ∀ g : Hub, g.SameBeyond (g.restartWaits l) { frames := (· ∈ i :: l) } := fun g =>
      (ih g).mono { frames := fun _ => List.mem_cons_of_mem i }
    cases used : h.ctx i with
    | none => exact Hub.restartWaits_cons_free used l ▸ rest h
    | some c =>
      rcases Hub.restartWaits_cons used l with step | ⟨step, -⟩
      · rw [step]
        exact ((h.putCtx_sameBeyond i c.restarted).mono { frames := by simp }).trans (rest _)
      · exact step ▸ rest h

theorem Hub.restartWaits_effOf (h : Hub) (l : List FrameId) (j : FrameId) :
    (h.restartWaits l).effOf j = h.effOf j := by
  rw [Hub.effOf, Hub.effOf, Hub.restartWaits_ctx]
  by_cases listed : j ∈ l
  · rw [if_pos listed]
    cases h.ctx j with
    | none => rfl
    | some c => exact c.restarted_eff
  · rw [if_neg listed]

theorem Hub.QueuesBanded.setClassRecord (hb : h.QueuesBanded) (a : ClassSetArgs) :
    (h.setClassRecord a).QueuesBanded := by
  have set : (h.updClass a.cls
      (fun x => { x with enabled := a.enabled, limit := a.limit, aging := a.aging })).QueuesBanded := by
    refine hb.thinned (fun k => ?_) fun _ _ _ => rfl
    rw [Hub.updClass_cls]
    split
    · next own => exact own ▸ .refl _
    · exact .refl _
  unfold Hub.setClassRecord
  dsimp only
  split
  · exact set
  · have same := Hub.restartWaits_sameBeyond (h.updClass a.cls
      (fun x => { x with enabled := a.enabled, limit := a.limit, aging := a.aging })) (h.cls a.cls).queue
    exact set.thinned (fun k => by rw [same.classes k id]) fun _ j _ => Hub.restartWaits_effOf _ _ j

end Restart

/-! ### Frames made available (R25, R26) -/

section Available
variable {h : Hub} {out : List FrameId} {p : PortId} {i : FrameId}

/-- A frame that is out and is made available joins a queue in its base band, or none (R26). -/
theorem Hub.QueuesBanded.makeAvailable (hb : h.QueuesBanded) (hf : h.FiledBut (i :: out)) (c : Context) (cause : Cause)
    (passed : Option PortId) : (h.makeAvailable i c cause passed).1.QueuesBanded :=
  hb.givesUp (fun k => hf.not_mem_shelf (.queue k)) (Hub.makeAvailable_givesUp hb (hf.leaveOwner_eq c) cause passed)

theorem Hub.QueuesBanded.reclaim (hb : h.QueuesBanded) (hf : h.FiledBut (i :: out)) (p : PortId) :
    (h.reclaim p i).QueuesBanded := by
  unfold Hub.reclaim
  split
  · exact hb
  · dsimp only
    split
    · exact hb.makeAvailable hf _ _ _
    · exact (hb.makeAvailable hf _ _ _).post _ _

theorem Hub.QueuesBanded.foldl_reclaim {l : List FrameId} (hb : h.QueuesBanded) (hf : h.FiledBut l) (once : l.Nodup)
    (p : PortId) : (l.foldl (fun g i => g.reclaim p i) h).QueuesBanded := by
  induction l generalizing h with
  | nil => exact hb
  | cons i l ih =>
    obtain ⟨fresh, once⟩ := List.nodup_cons.mp once
    exact ih (hb.reclaim hf p) (hf.reclaim fresh p) once

/-- A fence reclaims the frames of its port one after another, each out of its collection until its turn (R143). -/
theorem Hub.QueuesBanded.fence (hb : h.QueuesBanded) (hf : h.FiledBut []) (p : PortId) (why : FenceReason) :
    (h.fence p why).QueuesBanded := by
  have reclaimed : (h.fenceEnd p).QueuesBanded :=
    (hb.fenceStart hf p).foldl_reclaim (hf.fenceStart p) (hf.reclaimOrder_nodup p) p
  exact reclaimed.ofPorts (h.fence_fenceEnd p why)

theorem Hub.QueuesBanded.deal {t : EndTally} (hb : t.hub.QueuesBanded) (hf : t.hub.FiledBut (i :: out)) (p : PortId) :
    (t.deal p i).hub.QueuesBanded := by
  unfold EndTally.deal
  split
  · exact hb
  · split
    · exact hb.restores (fun k => hf.not_mem_shelf (.queue k)) (t.hub.enterHold_restores ..)
    · exact hb.makeAvailable hf _ _ _

theorem Hub.QueuesBanded.foldl_deal {t : EndTally} {l : List FrameId} (hb : t.hub.QueuesBanded)
    (hf : t.hub.FiledBut l) (once : l.Nodup) (p : PortId) :
    (l.foldl (fun t i => t.deal p i) t).hub.QueuesBanded := by
  induction l generalizing t with
  | nil => exact hb
  | cons i l ih =>
    obtain ⟨fresh, once⟩ := List.nodup_cons.mp once
    exact ih (hb.deal hf p) (hf.deal fresh p) once

/-- END_PREEMPT deals with the group frame by frame once it has left the stack (R121). -/
theorem Hub.QueuesBanded.endService (hb : h.QueuesBanded) (hf : h.FiledBut []) (p : PortId) (v : Urgent) :
    (h.endService p v).hub.QueuesBanded := by
  have lifted : (h.liftGroup p).hub.QueuesBanded := hb.ofPorts (h.liftGroup_lifts p).2
  rw [Hub.endService_hub]
  exact ((lifted.foldl_deal (hf.liftGroup p) (hf.group_nodup p) p).post _ _).setLatch _ _

end Available

/-! ### Promotion (R30, R31) -/

theorem Prio.ne_succ (b : Prio) : b ≠ b + 1 := by revert b; decide

/-- In a queue that stands in bands, what is put at the tail of a band parts the frames of that band and the higher
ones from those of the lower ones. -/
theorem insertTail_parts {q : List FrameId} {eff : FrameId → Prio} (banded : q.Pairwise (fun i j => eff j ≤ eff i))
    (b : Prio) (new : List FrameId) : ∃ ahead behind, q = ahead ++ behind ∧
      insertTail eff b new q = ahead ++ new ++ behind ∧ (∀ j ∈ ahead, b ≤ eff j) ∧ ∀ j ∈ behind, eff j < b := by
  have parts := takeWhile_dropWhile_banded banded (fun e => decide (b ≤ e))
    (fun _ _ le above => decide_eq_true (le_trans (of_decide_eq_true above) le))
  simp only [decide_eq_true_eq, decide_eq_false_iff_not, not_le] at parts
  exact ⟨_, _, (List.takeWhile_append_dropWhile ..).symm, rfl, parts⟩

section Promote
variable {h : Hub} {k : ClassId} {b : Prio} {j : FrameId}

/-- The frames of the queue that a promotion leaves where they are. -/
def Hub.undueFrames (h : Hub) (k : ClassId) (b : Prio) : List FrameId :=
  (h.cls k).queue.filter (fun i => !(h.dueFrames k b).contains i)

theorem Hub.mem_undueFrames : j ∈ h.undueFrames k b ↔ j ∈ (h.cls k).queue ∧ j ∉ h.dueFrames k b := by
  simp [Hub.undueFrames]

theorem Hub.promote_none (empty : h.dueFrames k b = []) : h.promote k b = h := if_pos (List.isEmpty_iff.mpr empty)

/-- The class record after a promotion: the due frames stand at the tail of the next band (R31). -/
theorem Hub.promote_record (h : Hub) (k : ClassId) (b : Prio) : (h.promote k b).cls k =
    { h.cls k with queue := insertTail h.effOf (b + 1) (h.dueFrames k b) (h.undueFrames k b) } := by
  by_cases empty : h.dueFrames k b = []
  · rw [Hub.promote_none empty, Hub.undueFrames, empty, insertTail, List.append_nil, List.takeWhile_append_dropWhile]
    simp
  · have some_due : ¬ (h.dueFrames k b).isEmpty = true := mt List.isEmpty_iff.mp empty
    rw [Hub.promote, if_neg some_due, (Hub.setBand_rest ..).2.1, Hub.updClass_cls, if_pos rfl]
    rfl

theorem Hub.updClass_sameBeyond (h : Hub) (k : ClassId) (f : ClassRec → ClassRec) :
    h.SameBeyond (h.updClass k f) { classes := (· = k) } where
  frames _ _ := rfl
  ports _ _ := rfl
  classes _ other := (h.updClass_cls ..).trans (if_neg other)
  blocks _ _ := rfl
  words _ _ := rfl
  waitList _ := rfl
  isolation _ := rfl

theorem Hub.setBand_sameBeyond (h : Hub) (e : Prio) (l : List FrameId) :
    h.SameBeyond (h.setBand e l) { frames := (· ∈ l) } := by
  induction l generalizing h with
  | nil => exact .refl h _
  | cons i l ih =>
    have rest : ∀ g : Hub, g.SameBeyond (g.setBand e l) { frames := (· ∈ i :: l) } := fun g =>
      (ih g).mono { frames := fun _ => List.mem_cons_of_mem i }
    unfold Hub.setBand
    split
    · next c _ => exact ((h.putCtx_sameBeyond i _).mono { frames := by simp }).trans (rest _)
    · exact rest h

/-- A promotion changes the due frames and the queue of their class, and nothing else. -/
theorem Hub.promote_sameBeyond (h : Hub) (k : ClassId) (b : Prio) :
    h.SameBeyond (h.promote k b) { frames := (· ∈ h.dueFrames k b), classes := (· = k) } := by
  unfold Hub.promote
  dsimp only
  split
  · exact .refl h _
  · exact ((h.updClass_sameBeyond k _).mono {}).trans ((Hub.setBand_sameBeyond ..).mono {})

/-- A due frame stands in its band until it is promoted (R30). -/
theorem Hub.dueFrames_effOf (due : j ∈ h.dueFrames k b) : h.effOf j = b := by
  obtain ⟨-, -, -, c, w, used, place, -⟩ := Hub.mem_dueFrames.mp due
  simp only [Hub.effOf, used, Context.eff, place]

/-- The promoted frames take the next band, and every other frame keeps its own (R31). -/
theorem Hub.promote_effOf (h : Hub) (k : ClassId) (b : Prio) (j : FrameId) :
    (h.promote k b).effOf j = if j ∈ h.dueFrames k b then b + 1 else h.effOf j := by
  rw [Hub.effOf, Hub.effOf, Hub.promote_ctx]
  by_cases due : j ∈ h.dueFrames k b
  · obtain ⟨-, -, -, c, w, used, -⟩ := Hub.mem_dueFrames.mp due
    rw [if_pos due, if_pos due, used]
    rfl
  · rw [if_neg due, if_neg due]

theorem Hub.promote_effOf_undue {l : List FrameId} (undue : l ⊆ h.undueFrames k b) :
    ∀ j ∈ l, (h.promote k b).effOf j = h.effOf j := fun j hj =>
  (h.promote_effOf k b j).trans (if_neg (Hub.mem_undueFrames.mp (undue hj)).2)

/-- The queue after a promotion: the frames that are not due stand in their order around those that are (R31). -/
structure Hub.PromotedAs (h : Hub) (k : ClassId) (b : Prio) (ahead behind : List FrameId) : Prop where
  undue : h.undueFrames k b = ahead ++ behind
  queue : ((h.promote k b).cls k).queue = ahead ++ h.dueFrames k b ++ behind
  above : ∀ j ∈ ahead, b + 1 ≤ h.effOf j
  below : ∀ j ∈ behind, h.effOf j < b + 1

theorem Hub.QueuesBanded.undueFrames (hb : h.QueuesBanded) (k : ClassId) (b : Prio) :
    (h.undueFrames k b).Pairwise (fun i j => h.effOf j ≤ h.effOf i) := (hb k).filter _

theorem Hub.QueuesBanded.promotedAs (hb : h.QueuesBanded) (k : ClassId) (b : Prio) :
    ∃ ahead behind, h.PromotedAs k b ahead behind := by
  obtain ⟨ahead, behind, undue, queue, above, below⟩ :=
    insertTail_parts (hb.undueFrames k b) (b + 1) (h.dueFrames k b)
  exact ⟨ahead, behind, undue, (congrArg ClassRec.queue (h.promote_record k b)).trans queue, above, below⟩

section Parts
variable {ahead behind : List FrameId} (parts : h.PromotedAs k b ahead behind)
include parts

theorem Hub.PromotedAs.effOf_ahead : ∀ j ∈ ahead, (h.promote k b).effOf j = h.effOf j :=
  Hub.promote_effOf_undue (parts.undue ▸ List.subset_append_left ..)

theorem Hub.PromotedAs.effOf_behind : ∀ j ∈ behind, (h.promote k b).effOf j = h.effOf j :=
  Hub.promote_effOf_undue (parts.undue ▸ List.subset_append_right ..)

omit parts in
theorem Hub.promote_effOf_due : ∀ j ∈ h.dueFrames k b, (h.promote k b).effOf j = b + 1 := fun j due =>
  (h.promote_effOf k b j).trans (if_pos due)

/-- The promoted frames stand below those ahead of them, and above those behind (R31). -/
theorem Hub.PromotedAs.banded (hb : h.QueuesBanded) : ((h.promote k b).cls k).queue.Pairwise
    (fun i j => (h.promote k b).effOf j ≤ (h.promote k b).effOf i) := by
  have stood := hb.undueFrames k b
  rw [parts.undue] at stood
  obtain ⟨first, last, across⟩ := List.pairwise_append.mp stood
  have high := parts.effOf_ahead
  have low := parts.effOf_behind
  have middle := Hub.promote_effOf_due (h := h) (k := k) (b := b)
  rw [parts.queue, List.append_assoc]
  refine List.pairwise_append.mpr ⟨first.imp_of_mem fun {i j} hi hj le => ?_,
    List.pairwise_append.mpr ⟨List.pairwise_of_forall_mem_list fun i hi j hj => ?_,
      last.imp_of_mem fun {i j} hi hj le => ?_, fun i hi j hj => ?_⟩, fun i hi j hj => ?_⟩
  · rwa [high i hi, high j hj]
  · rw [middle i hi, middle j hj]
  · rwa [low i hi, low j hj]
  · rw [middle i hi, low j hj]
    exact (parts.below j hj).le
  · rw [high i hi]
    rcases List.mem_append.mp hj with hj | hj
    · rw [middle j hj]
      exact parts.above i hi
    · rw [low j hj]
      exact across i hi j hj

end Parts

/-- A promotion leaves every queue in its bands (R30, R31). -/
theorem Hub.QueuesBanded.promote (hb : h.QueuesBanded) (hf : h.FiledBut []) (k : ClassId) (b : Prio) :
    (h.promote k b).QueuesBanded := fun l => by
  by_cases own : l = k
  · subst own
    obtain ⟨ahead, behind, parts⟩ := hb.promotedAs l b
    exact parts.banded hb
  · have same := h.promote_sameBeyond k b
    rw [same.classes l own]
    refine (hb l).imp_of_mem fun {i j} hi hj le => ?_
    have apart : ∀ j ∈ (h.cls l).queue, (h.promote k b).effOf j = h.effOf j := fun j queued =>
      Hub.effOf_of_frame (same.frames j fun due => own ?_)
    · rwa [apart i hi, apart j hj]
    · obtain ⟨-, -, listed, -⟩ := Hub.mem_dueFrames.mp due
      have stood : h.shelfOf j = some (.queue l) := hf.mem_nil.mp queued
      have other : h.shelfOf j = some (.queue k) := hf.mem_nil.mp listed
      cases stood.symm.trans other
      rfl

end Promote

/-! ### Every deed -/

section Deeds
variable {h g : Hub}

/-- Every deed leaves the queues in their bands, in a hub whose frames are filed. -/
theorem Hub.Deed.banded (d : h.Deed g) (hf : h.FiledBut []) (hb : h.QueuesBanded) : g.QueuesBanded := by
  cases d with
  | @release p i c check cause passed on used owned =>
    have left : (h.leaveOwner i { c with check := check }).FiledBut [i] := hf.leaveOwner used owned rfl
    exact (hb.leaveOwner _ _).makeAvailable left _ _ _
  | repair used isolated amends => exact (hb.leaveIsolation _).makeAvailable (hf.leaveIsolation used isolated) _ _ _
  | claim on room queued used allowed => exact hb.claimFrame hf queued used _
  | endPreempt on latch held flat room => exact hb.endService hf _ _
  | fence on => exact hb.fence hf _ _
  | promote => exact hb.promote hf _ _
  | setClass positive bounded aging closed fits => exact hb.setClassRecord _
  | @free p i c on used owned =>
    have left := hf.leaveOwner (d := c) used owned rfl
    exact (hb.leaveOwner _ _).freeFrame (fun k => left.not_mem_shelf (.queue k)) _
  | discard used isolated =>
    have left := hf.leaveIsolation used isolated
    exact (hb.leaveIsolation _).freeFrame (fun k => left.not_mem_shelf (.queue k)) _
  | @isolate p i c check r on used owned =>
    exact hb.ofFrame (hf.not_queued_of_owner used owned) (h.isolate_isolates i { c with check := check } r).2
  | edit on used owned amends =>
    exact hb.ofFrame (hf.not_queued_of_owner used (Place.owner_of_isKeptOf owned)) (h.putCtx_sameBeyond ..)
  | stayIsolated used isolated amends =>
    exact hb.ofFrame (hf.not_queued_of_place used (Place.isQueued_of_isIsolated isolated)) (h.putCtx_sameBeyond ..)
  | @suspend p i c on used held room =>
    obtain ⟨-, -, same⟩ := Hub.pushVoluntary_pushes (p := p) used
    exact hb.ofFrame (hf.not_queued_of_owner used (Place.owner_of_isHeldOf held)) same
  | @resume p e rest on top tag room =>
    have stood : h.shelfOf e.frame = some (.stack p) := hf.mem_nil.mp (by simp [Hub.shelf, top])
    exact (hb.updPort _ _).resumeFrame (hf.not_queued stood nofun) _
  | @takePreempt p n _ on latch room =>
    have same := h.beginService_sameBeyond p n
    refine hb.beyond same (fun k => by rw [same.classes k id]) fun j held => ?_
    have stood : h.shelfOf j = some (.hold p) := hf.mem_nil.mp held
    exact hf.not_queued stood nofun
  | tick => exact hb.thinned (fun _ => .refl _) fun _ j _ => h.tick_effOf j
  | join off lease grace => exact hb.updPort _ _
  | leave on may => exact hb.ofPorts (h.endSession_sameBeyond _)
  | subscribe on => exact hb.updPort _ _
  | restartLease => exact hb.updPort _ _
  | goOffline off => exact hb.updPort _ _
  | wait on mask time room idle empty => exact hb.ofPorts (h.beginWait_begins _ _ _).2.2
  | endWait ended on => exact hb.ofPorts (h.endWait_ends _ _).2.2
  | readClaim result => exact hb.updPort _ _
  | preempt other on => exact hb.postUrgent _ _
  | readNotices => exact hb.updPort _ _
  | lapse latch => exact hb.ofPorts (h.lapse_sameBeyond _ _)

/-- A park opens a FREE frame, which stands in no queue (R42). -/
theorem Hub.Opens.banded (o : h.Opens g) (hf : h.FiledBut []) (hb : h.QueuesBanded) : g.QueuesBanded := by
  cases o with
  | @park p i c len check on enabled legal positive short filling room lowest space =>
    have idle := hf.not_queued (x := none) (by rw [Hub.shelfOf, Hub.ctx_of_lowestFree lowest]; rfl) nofun
    have queues : ∀ k, ((h.openPark p i c len check).cls k).queue = (h.cls k).queue := fun k => by
      rw [Hub.openPark_cls]
      split <;> rfl
    refine hb.thinned (fun k => queues k ▸ .refl _) fun k j queued => Hub.effOf_of_frame ?_
    have other : j ≠ i := fun own => idle k (own ▸ (queues k).subst queued)
    rw [Hub.openPark_frame, if_neg other]

theorem Hub.Rewrites.banded (x : h.Rewrites g) (hb : h.QueuesBanded) : g.QueuesBanded :=
  hb.thinned (fun k => by rw [x.classes]) fun _ j _ => Hub.effOf_of_frame (x.frames j)

/-- What writes the Image Store changes no frame that stands in a queue (R46, R71). -/
theorem Hub.Writes.banded (w : h.Writes g) (hf : h.FiledBut []) (hb : h.QueuesBanded) : g.QueuesBanded := by
  cases w with
  | @fill p i c off ws on used filling fits =>
    have stored := h.storeWords_rewrites c off ws
    refine (stored.banded hb).ofFrame ?_ (Hub.putCtx_sameBeyond ..)
    exact (hf.storeWords c off ws).not_queued_of_owner ((stored.ctx i).trans used) (Place.owner_of_isFillingOf filling)
  | @modify p i c off ws on used held =>
    have stored := h.storeWords_rewrites c off ws
    refine (stored.banded hb).ofFrame ?_ (Hub.putCtx_sameBeyond ..)
    exact (hf.storeWords c off ws).not_queued_of_owner ((stored.ctx i).trans used) (Place.owner_of_isHeldOf held)
  | rewrite used isolated => exact (h.storeWords_rewrites ..).banded hb
  | strike => exact (h.strike_rewrites ..).banded hb

end Deeds

end Sys2Proof.Machine

/-- Settles O56: a frame joins a queue in its own band and promoted frames join the next one, and no other deed moves a
queued frame within its queue. -/
theorem stepsKeepQueuesInBands : Obligations.StepsKeepQueuesInBands := by
  intro s t filed banded e
  have law := step_keeps (Law := fun h => h.FiledBut [] ∧ h.QueuesBanded) ⟨Hub.reset_filed, Hub.reset_queuesBanded⟩
    (fun ⟨hf, hb⟩ d => ⟨d.filed hf, d.banded hf hb⟩) (fun ⟨hf, hb⟩ o => ⟨o.filed hf, o.banded hf hb⟩)
    (fun ⟨hf, hb⟩ w => ⟨w.filed hf, w.banded hf hb⟩) ⟨s.hub.filed_iff.mp filed, banded⟩ e
  exact law.2
end

section
/-!
AGING_PROMOTION (R30, R31): the queue after a promotion, band by band.
-/
open Sys2Proof Sys2Proof.Machine
namespace Sys2Proof.Machine

/-- A frame that is in use before and after a change keeps its generation. -/
theorem Frame.Evolves.eq_of_used {f g : Frame} (changes : f.Evolves g) {c d : Context} (used : f.ctx = some c)
    (now : g.ctx = some d) : g = { f with ctx := some d } := by
  rcases changes.used c used with ⟨gen, -⟩ | freed
  · exact congrArg₂ Frame.mk gen now
  · rw [freed] at now
    cases now

section Bands
variable {h : Hub} {k : ClassId} {b e : Prio} {j : FrameId}

/-- Where aging is on, the due frames below band 3 are those of the band that have waited the interval (R30). -/
theorem Hub.dueFrames_eq (aging : (h.cls k).aging ≠ 0) (low : b ≠ 3) : h.dueFrames k b =
    (h.cls k).queue.filter (fun j => (h.ctx j).any (fun c =>
      match c.place with
      | .queued e w => e == b && decide ((h.cls k).aging ≤ w)
      | _ => false)) := by
  rw [Hub.dueFrames, if_neg (not_or.mpr ⟨aging, low⟩)]
  refine List.filter_congr fun j _ => ?_
  rw [Hub.isDue]
  cases h.ctx j with
  | none => rfl
  | some c => rfl

/-- The frames of a band that are not due: what a promotion leaves of the band in the queue. -/
theorem Hub.undueFrames_filter (h : Hub) (k : ClassId) (b e : Prio) :
    (h.undueFrames k b).filter (fun j => h.effOf j == e) = if e = b
      then ((h.cls k).queue.filter (fun j => h.effOf j == e)).filter (fun j => !(h.dueFrames k b).contains j)
      else (h.cls k).queue.filter (fun j => h.effOf j == e) := by
  rw [Hub.undueFrames, List.filter_comm]
  split
  · rfl
  · next other =>
    refine List.filter_eq_self.mpr fun j inBand => ?_
    have band : h.effOf j = e := beq_iff_eq.mp (List.mem_filter.mp inBand).2
    have undue : j ∉ h.dueFrames k b := fun due => other (band.symm.trans (Hub.dueFrames_effOf due))
    simpa using undue

/-- No frame stands in a band all its frames keep clear of. -/
theorem filter_band_eq_nil {eff : FrameId → Prio} {l : List FrameId} (clear : ∀ j ∈ l, eff j ≠ e) :
    l.filter (fun j => eff j == e) = [] :=
  List.filter_eq_nil_iff.mpr fun j hj band => clear j hj (beq_iff_eq.mp band)

section Parts
variable {ahead behind : List FrameId} (parts : h.PromotedAs k b ahead behind)
include parts

/-- A band after a promotion: the frames of `ahead` that were in it, the promoted ones if it is theirs, and the frames
of `behind` that were in it. -/
theorem Hub.PromotedAs.filter (e : Prio) :
    ((h.promote k b).cls k).queue.filter (fun j => (h.promote k b).effOf j == e) =
      ahead.filter (fun j => h.effOf j == e) ++ (if e = b + 1 then h.dueFrames k b else []) ++
        behind.filter (fun j => h.effOf j == e) := by
  have first := List.filter_congr (p := fun j => (h.promote k b).effOf j == e) (q := fun j => h.effOf j == e)
    fun j hj => congrArg (· == e) (parts.effOf_ahead j hj)
  have last := List.filter_congr (p := fun j => (h.promote k b).effOf j == e) (q := fun j => h.effOf j == e)
    fun j hj => congrArg (· == e) (parts.effOf_behind j hj)
  have middle : (h.dueFrames k b).filter (fun j => (h.promote k b).effOf j == e) =
      if e = b + 1 then h.dueFrames k b else [] := by
    split
    · next next => exact List.filter_eq_self.mpr fun j due => beq_iff_eq.mpr (next ▸ Hub.promote_effOf_due j due)
    · next other => exact filter_band_eq_nil fun j due band => other (band ▸ Hub.promote_effOf_due j due)
  rw [parts.queue, List.filter_append, List.filter_append, first, middle, last]

/-- Band by band, a promotion moves the due frames to the tail of the next band, and keeps the others in their order. -/
theorem Hub.PromotedAs.bands (e : Prio) :
    ((h.promote k b).cls k).queue.filter (fun j => (h.promote k b).effOf j == e) =
      if e = b + 1 then (h.cls k).queue.filter (fun j => h.effOf j == e) ++ h.dueFrames k b
      else if e = b then
        ((h.cls k).queue.filter (fun j => h.effOf j == e)).filter (fun j => !(h.dueFrames k b).contains j)
      else (h.cls k).queue.filter (fun j => h.effOf j == e) := by
  have stays := h.undueFrames_filter k b e
  rw [parts.undue, List.filter_append] at stays
  rw [parts.filter, ← stays]
  by_cases next : e = b + 1
  · have clear : behind.filter (fun j => h.effOf j == e) = [] :=
      filter_band_eq_nil fun j hj band => (parts.below j hj).ne (band.trans next)
    rw [if_neg (next ▸ (Prio.ne_succ b).symm), clear, List.append_nil] at stays
    rw [if_pos next, if_pos next, clear, List.append_nil, stays]
  · rw [if_neg next, if_neg next, List.append_nil, stays]

end Parts

/-- A promoted frame stands in the next band with waited time 0, and is otherwise the same (R31). -/
theorem Hub.promote_frame {c : Context} (due : j ∈ h.dueFrames k b) (used : h.ctx j = some c) :
    (h.promote k b).frame j = { h.frame j with ctx := some { c with place := .queued (b + 1) 0 } } := by
  refine ((h.promote_evolves k b).frames j).eq_of_used used ((h.promote_ctx k b j).trans ?_)
  rw [if_pos due, used, Option.map_some]

end Bands

end Sys2Proof.Machine

/-- Settles O45: a banded queue is parted where the tail of the next band is, and the due frames stand there. -/
theorem promotionMovesTheDueFramesUp : Obligations.PromotionMovesTheDueFramesUp := by
  intro s k b _ banded a due
  refine ⟨_, rfl, rfl, fun idle => Hub.promote_none (if_pos idle), fun aging low => ?_⟩
  have due_eq : due = s.hub.dueFrames k b := (Hub.dueFrames_eq aging low).symm
  obtain ⟨ahead, behind, parts⟩ := banded.promotedAs k b
  rw [due_eq]
  have record : (s.hub.promote k b).cls k = { s.hub.cls k with queue := ((s.hub.promote k b).cls k).queue } := by
    rw [Hub.promote_record]
  exact ⟨parts.bands, parts.banded banded, record, fun j member c used => Hub.promote_frame member used,
    s.hub.promote_sameBeyond k b⟩
end

section
/-!
TIMEBASE_TICK of a ready hub in which nothing is due (R29, R91, R112, R132).
-/
open Sys2Proof Sys2Proof.Machine
namespace Sys2Proof.Machine

/-! ### Nothing is taken where nothing is due -/

theorem State.NothingDue.not_due {s : State} (idle : s.NothingDue) {i : Instr} (event : i ∈ dueCommands) :
    ¬ s.hub.Due i := by
  obtain ⟨timers, bands⟩ := idle
  rcases mem_dueCommands.mp event with ⟨k, b, -, rfl⟩ | ⟨p, rfl⟩ | ⟨p, rfl⟩ | ⟨p, rfl⟩
  · exact not_not.mpr (bands k b)
  all_goals obtain ⟨lease, wait, grace⟩ := timers p
  · exact Bool.eq_false_iff.mp wait
  · exact fun ⟨n, ended⟩ => grace n ended
  · exact Bool.eq_false_iff.mp lease

theorem State.NothingDue.takeDue_eq {s : State} (idle : s.NothingDue) : s.takeDue = s := by
  have run := runAll_notDue (fun _ event => event) fun _ => idle.not_due
  exact Host.Outcome.next.inj ((runAll_dueCommands s).symm.trans run)

theorem exec_timebaseTick_idle {s : State} (ready : s.isReady = true) (idle : s.NothingDue) :
    exec .timebaseTick s = .next { s with hub := s.hub.tick } := by
  rw [exec_timebaseTick_ready (beq_iff_eq.mp ready), idle.takeDue_eq]

/-! ### What counts -/

theorem PortState.tick_of_not_online {x : PortState} (off : x.isOnline = false) : x.tick = x := by
  cases x with
  | online n => cases off
  | _ => rfl

theorem ClaimRec.tick_of_not_waiting {x : ClaimRec} (still : x.isWaiting = false) : x.tick = x := by
  cases x with
  | waiting m n => cases still
  | _ => rfl

theorem Latch.tick_of_not_pending {x : Latch} (still : x.isPending = false) : x.tick = x := by
  cases x with
  | pending n g => cases still
  | _ => rfl

theorem Frame.tick_queued {f : Frame} {c : Context} {e : Prio} {w : Nat} (used : f.ctx = some c)
    (place : c.place = .queued e w) :
    f.tick = { f with ctx := some { c with place := .queued e (min (w + 1) 60000) } } := by
  simp only [Frame.tick, used, place]

theorem Frame.tick_of_not_queued {f : Frame} (still : f.ctx.any (fun c => c.place.isQueued) = false) :
    f.tick = f := by
  unfold Frame.tick
  split
  · next c used =>
    split
    · next e w place =>
      rw [used, Option.any_some, place] at still
      cases still
    · rfl
  · rfl

/-- A tick changes ports and frames alone. -/
theorem Hub.tick_sameBeyond (h : Hub) : h.SameBeyond h.tick { frames := fun _ => True, ports := fun _ => True } where
  frames _ reached := absurd trivial reached
  ports _ reached := absurd trivial reached
  classes _ _ := rfl
  blocks _ _ := rfl
  words _ _ := rfl
  waitList _ := rfl
  isolation _ := rfl

end Sys2Proof.Machine

/-- Settles O41: nothing is taken, and each timer counts for itself. -/
theorem tickCountsEveryTimer : Obligations.TickCountsEveryTimer := by
  intro s ready idle
  refine ⟨_, exec_timebaseTick_idle ready idle, rfl, rfl, rfl, rfl, fun p => ?ports, fun j c e w used place => ?queued,
    fun j still => ?others, s.hub.tick_sameBeyond⟩
  case ports =>
    rw [Hub.tick_port]
    exact ⟨fun n on => congrArg PortState.tick on, PortState.tick_of_not_online,
      fun m n waits => congrArg ClaimRec.tick waits, ClaimRec.tick_of_not_waiting,
      fun n g latch => congrArg Latch.tick latch, fun n latch => congrArg Latch.tick latch,
      Latch.tick_of_not_pending, rfl⟩
  case queued => exact (s.hub.tick_frame j).trans (Frame.tick_queued used place)
  case others => exact (s.hub.tick_frame j).trans (Frame.tick_of_not_queued still)
end

section
/-!
CLASS_SET (R33, R34): its word, its conditions, and the class and frames after it.
-/
open Sys2Proof Sys2Proof.Machine
namespace Sys2Proof.Machine

/-! ### The word of a CLASS_SET (R180) -/

theorem classSetWord_clear (a : ClassSetArgs) : clearIn (classSetWord a) 0x000080F0#32 = true := by
  rw [clearIn, classSetWord, show (0x000080F0#32) = 0#16 ++ 1#1 ++ 0#7 ++ 0xF#4 ++ 0#1 ++ 0#3 from rfl]
  iterate 5 rw [BitVec.and_append]
  simp only [BitVec.zero_and, BitVec.and_zero]
  rfl

theorem classSetWord_cls (a : ClassSetArgs) : bits (classSetWord a) 0 3 = BitVec.ofFin a.cls := by
  rw [bits, classSetWord, BitVec.extractLsb'_append_eq_of_add_le (by decide), BitVec.extractLsb'_eq_self]

theorem classSetWord_enabled (a : ClassSetArgs) : bit (classSetWord a) 3 = a.enabled := by
  have fourth : bits (classSetWord a) 3 1 = BitVec.ofBool a.enabled := by
    rw [bits, classSetWord, BitVec.extractLsb'_append_eq_of_le (by decide),
      BitVec.extractLsb'_append_eq_of_add_le (by decide), BitVec.extractLsb'_eq_self]
  have lowest := congrArg (BitVec.getLsbD · 0) fourth
  simpa [bits, bit] using lowest

theorem classSetWord_limit (a : ClassSetArgs) : bits (classSetWord a) 8 7 = BitVec.ofNat 7 a.limit := by
  rw [bits, classSetWord]
  iterate 3 rw [BitVec.extractLsb'_append_eq_of_le (by decide)]
  rw [BitVec.extractLsb'_append_eq_of_add_le (by decide), BitVec.extractLsb'_eq_self]

theorem classSetWord_aging (a : ClassSetArgs) : bits (classSetWord a) 16 16 = BitVec.ofNat 16 a.aging := by
  rw [bits, classSetWord]
  iterate 5 rw [BitVec.extractLsb'_append_eq_of_le (by decide)]
  rw [BitVec.extractLsb'_eq_self]

section Body
variable {a : ClassSetArgs} (limit : a.limit < 128) (aging : a.aging < 65536)
include limit aging

/-- The word of a CLASS_SET gives back its four fields (R180). -/
theorem readClassSet_classSetWord : readClassSet [classSetWord a] = some a := by
  rw [readClassSet, if_pos (classSetWord_clear a), classSetWord_cls, classSetWord_enabled, classSetWord_limit,
    classSetWord_aging, toNat_ofNat_of_lt limit, toNat_ofNat_of_lt aging]

theorem bodyOf_classSet {s : State} {p : PortId} (on : s.hub.online p = true) (tag : Tag) :
    bodyOf s.hub (.classSet p tag [classSetWord a]) = s.hub.classSetWith a := by
  show s.hub.session .classSet p (s.hub.form (readClassSet _) s.hub.classSetWith) = _
  rw [Hub.session_online on, readClassSet_classSetWord limit aging]
  rfl

end Body

/-! ### The conditions (R33) -/

section Conditions
variable {h : Hub} {a : ClassSetArgs}

/-- The settings CLASS_SET may give a class: a limit of 1 to 64, and an aging interval of 0 or 10 to 60000 (R33). -/
def ClassSetArgs.InRange (a : ClassSetArgs) : Prop :=
  (1 ≤ a.limit ∧ a.limit ≤ 64) ∧ (a.aging = 0 ∨ 10 ≤ a.aging ∧ a.aging ≤ 60000)

theorem ClassSetArgs.not_inRange_iff :
    ¬ a.InRange ↔ a.limit < 1 ∨ 64 < a.limit ∨ zeroOrPeriod a.aging = false := by
  rw [ClassSetArgs.InRange, ← zeroOrPeriod_iff, not_and_or, not_and_or, Nat.not_le, Nat.not_le, or_assoc,
    Bool.not_eq_true]

theorem Hub.classSetWith_badValue (bad : ¬ a.InRange) : h.classSetWith a = (h, .bare .badValue) :=
  if_pos (ClassSetArgs.not_inRange_iff.mp bad)

variable (good : a.InRange)
include good

theorem Hub.classSetWith_disabled (closed : a.enabled = false ∧ 0 < (h.cls a.cls).population) :
    h.classSetWith a = (h, .bare .population) :=
  (if_neg (mt ClassSetArgs.not_inRange_iff.mpr (not_not.mpr good))).trans (if_pos closed)

variable (serves : ¬ (a.enabled = false ∧ 0 < (h.cls a.cls).population))
include serves

theorem Hub.classSetWith_over (excess : a.limit < (h.cls a.cls).population) :
    h.classSetWith a = (h, .bare .population) :=
  (if_neg (mt ClassSetArgs.not_inRange_iff.mpr (not_not.mpr good))).trans ((if_neg serves).trans (if_pos excess))

theorem Hub.classSetWith_ok (fits : ¬ a.limit < (h.cls a.cls).population) :
    h.classSetWith a = (h.setClassRecord a, .bare .ok) :=
  (if_neg (mt ClassSetArgs.not_inRange_iff.mpr (not_not.mpr good))).trans ((if_neg serves).trans (if_neg fits))

end Conditions

/-! ### The class and its frames after a CLASS_SET (R32, R34) -/

section Taken
variable (h : Hub) (a : ClassSetArgs)

/-- A class that takes the settings of a CLASS_SET (R34). -/
def ClassRec.withSettings (x : ClassRec) (a : ClassSetArgs) : ClassRec :=
  { x with enabled := a.enabled, limit := a.limit, aging := a.aging }

/-- The frames whose waited times a CLASS_SET restarts: those queued in its class, if it changes the aging interval
(R32). -/
def Hub.restartedBy : List FrameId := if a.aging = (h.cls a.cls).aging then [] else (h.cls a.cls).queue

theorem Hub.setClassRecord_eq :
    h.setClassRecord a = (h.updClass a.cls (·.withSettings a)).restartWaits (h.restartedBy a) := by
  unfold Hub.setClassRecord Hub.restartedBy
  dsimp only
  split <;> rfl

theorem Hub.setClassRecord_sameBeyond :
    h.SameBeyond (h.setClassRecord a) { frames := (· ∈ h.restartedBy a), classes := (· = a.cls) } := by
  rw [Hub.setClassRecord_eq]
  exact ((h.updClass_sameBeyond a.cls _).mono {}).trans ((Hub.restartWaits_sameBeyond ..).mono {})

theorem Hub.setClassRecord_cls : (h.setClassRecord a).cls a.cls = (h.cls a.cls).withSettings a := by
  rw [Hub.setClassRecord_eq, (Hub.restartWaits_sameBeyond ..).classes _ id, Hub.updClass_cls, if_pos rfl]

variable {h a}

theorem Hub.mem_restartedBy {j : FrameId} :
    j ∈ h.restartedBy a ↔ j ∈ (h.cls a.cls).queue ∧ a.aging ≠ (h.cls a.cls).aging := by
  unfold Hub.restartedBy
  split
  · next same => simp [same]
  · next changed => simp [changed]

/-- In a hub whose frames are filed a QUEUED frame stands in the queue of its class (R2). -/
theorem Hub.Filed.mem_queue {j : FrameId} {c : Context} {e : Prio} {w : Nat} {k : ClassId} (filed : h.Filed)
    (used : h.ctx j = some c) (place : c.place = .queued e w) (cls : c.control.cls = k) : j ∈ (h.cls k).queue := by
  rw [filed.queue, Hub.queuedIn, used, Option.any_some, place, cls, beq_self_eq_true]
  rfl

/-- A frame whose waited time restarts is otherwise the same (R32). -/
theorem Hub.setClassRecord_frame {j : FrameId} {c : Context} {e : Prio} {w : Nat} (good : a.InRange)
    (listed : j ∈ h.restartedBy a) (used : h.ctx j = some c) (place : c.place = .queued e w) :
    (h.setClassRecord a).frame j = { h.frame j with ctx := some { c with place := .queued e 0 } } := by
  obtain ⟨⟨positive, bounded⟩, aging⟩ := good
  refine ((h.setClassRecord_evolves positive bounded ((zeroOrPeriod_iff _).mpr aging)).frames j).eq_of_used used ?_
  show (h.setClassRecord a).ctx j = _
  rw [Hub.setClassRecord_eq, Hub.restartWaits_ctx, if_pos listed]
  show (h.ctx j).map Context.restarted = _
  rw [used, Option.map_some, Context.restarted_queued place]

end Taken

end Sys2Proof.Machine

/-- Settles O33: the conditions in their order, and then the frames of `Hub.restartedBy`, which in a filed hub are the
class's QUEUED ones. -/
theorem classSetReplacesTheSettings : Obligations.ClassSetReplacesTheSettings := by
  intro s p tag a filed on limit aging i x admitted
  have body := bodyOf_classSet limit aging on tag
  by_cases good : a.InRange
  · rw [if_neg (not_or.mpr (good.imp not_not.mpr not_not.mpr))]
    split_ifs with closed excess
    · exact refused_body rfl admitted (body.trans (Hub.classSetWith_disabled good closed))
    · exact refused_body rfl admitted (body.trans (Hub.classSetWith_over good closed excess))
    · refine takes_body_eq rfl admitted (body.trans (Hub.classSetWith_ok good closed excess))
        ⟨s.hub.setClassRecord_cls a, fun j c e w used place cls changed => ?_,
          (s.hub.setClassRecord_sameBeyond a).mono { frames := fun j => Hub.mem_restartedBy.mp }⟩
      have queued := filed.mem_queue used place cls
      exact Hub.setClassRecord_frame good (Hub.mem_restartedBy.mpr ⟨queued, changed⟩) used place
  · rw [if_pos (not_and_or.mp good)]
    exact refused_body rfl admitted (body.trans (Hub.classSetWith_badValue good))
end
